-- ==== Sys2Proof/Word.lean ====
section
/-! DEFINITION. The words of the machine: bytes, 16-bit words, the fields of an instruction word (30_encoding.md R61). -/

namespace Sys2Proof

/-- An 8-bit data register or memory byte (R11, R40). -/
abbrev Byte := BitVec 8

/-- A 16-bit register, stack entry or instruction word (R13, R14, R15, R60). -/
abbrev Word := BitVec 16

/-- The 12-bit address literal `NNN` (R61). -/
abbrev Addr := BitVec 12

/-- The 4-bit literal `N`, and the family nibble `OP` (R61). -/
abbrev Nibble := BitVec 4

/-- The number of a data register, what the fields `X` and `Y` name (R11, R61). -/
abbrev Reg := Fin 16

/-- VF, the data register that doubles as the flag register (R12). -/
abbrev Reg.flag : Reg := 15

end Sys2Proof
end

