-- ==== Sys2Proof/Syntax.lean ====
section
/-! DEFINITION. The instructions: one constructor per row of spec/opcode_table.json, in the table's order
(30_encoding.md R64). -/

namespace Sys2Proof

/-- One instruction with its operand fields (R61, R62). `x` and `y` are register numbers, `n`, `nn`, `nnn` unsigned
literals of 4, 8 and 12 bits (R63). -/
inductive Instr where
  | clear                             -- 00E0 CLEAR
  | ret                               -- 00EE RETURN
  | jump (nnn : Addr)                 -- 1NNN JUMP
  | call (nnn : Addr)                 -- 2NNN CALL
  | skipEqLit (x : Reg) (nn : Byte)   -- 3XNN SKIP-EQ-LIT
  | skipNeLit (x : Reg) (nn : Byte)   -- 4XNN SKIP-NE-LIT
  | skipEqReg (x y : Reg)             -- 5XY0 SKIP-EQ-REG
  | setLit (x : Reg) (nn : Byte)      -- 6XNN SET-LIT
  | addLit (x : Reg) (nn : Byte)      -- 7XNN ADD-LIT
  | assign (x y : Reg)                -- 8XY0 ASSIGN
  | orReg (x y : Reg)                 -- 8XY1 OR
  | andReg (x y : Reg)                -- 8XY2 AND
  | xorReg (x y : Reg)                -- 8XY3 XOR
  | addReg (x y : Reg)                -- 8XY4 ADD-REG
  | subReg (x y : Reg)                -- 8XY5 SUB-REG
  | shiftRight (x y : Reg)            -- 8XY6 SHIFT-RIGHT (y is encoded and unused, R63)
  | subRev (x y : Reg)                -- 8XY7 SUB-REV
  | shiftLeft (x y : Reg)             -- 8XYE SHIFT-LEFT (y is encoded and unused, R63)
  | skipNeReg (x y : Reg)             -- 9XY0 SKIP-NE-REG
  | setIndex (nnn : Addr)             -- ANNN SET-INDEX
  | jumpOffset (nnn : Addr)           -- BNNN JUMP-OFFSET
  | random (x : Reg) (nn : Byte)      -- CXNN RANDOM
  | draw (x y : Reg) (n : Nibble)     -- DXYN DRAW
  | skipKey (x : Reg)                 -- EX9E SKIP-KEY
  | skipNokey (x : Reg)               -- EXA1 SKIP-NOKEY
  | getDelay (x : Reg)                -- FX07 GET-DELAY
  | waitKey (x : Reg)                 -- FX0A WAIT-KEY
  | setDelay (x : Reg)                -- FX15 SET-DELAY
  | setSound (x : Reg)                -- FX18 SET-SOUND
  | addIndex (x : Reg)                -- FX1E ADD-INDEX
  | glyphAddr (x : Reg)               -- FX29 GLYPH-ADDR
  | bcd (x : Reg)                     -- FX33 BCD
  | regDump (x : Reg)                 -- FX55 REG-DUMP
  | regLoad (x : Reg)                 -- FX65 REG-LOAD
  | unknown (w : Word)                -- any other word, UNKNOWN (R66, R85)
  deriving DecidableEq, Repr

end Sys2Proof
end

