-- ==== Sys2Proof/WellFormed.lean ====
section
/-! DEFINITION. The opcode table as rows of mask and match (30_encoding.md R62, R64), and which instructions are
well formed: register numbers and literals are in range by their types, so the one check left is that the word of the
fallback `UNKNOWN` selects no row of the catalogue (R66). -/

namespace Sys2Proof

/-- A row of the catalogue: `bits` is the row's `match` value under `mask` (R62). -/
structure OpcodeRow where
  bits : Word
  mask : Word
  deriving DecidableEq, Repr

/-- `W` selects the row when `W & mask = match` (R64). -/
def OpcodeRow.selects (r : OpcodeRow) (w : Word) : Bool := w &&& r.mask == r.bits

/-- Rows 1 to 9 of R64: 00E0, 00EE, 1NNN, 2NNN, 3XNN, 4XNN, 5XY0, 6XNN, 7XNN. -/
def opcodeRowsLow : List OpcodeRow :=
  [⟨0x00E0, 0xFFFF⟩, ⟨0x00EE, 0xFFFF⟩, ⟨0x1000, 0xF000⟩, ⟨0x2000, 0xF000⟩, ⟨0x3000, 0xF000⟩,
   ⟨0x4000, 0xF000⟩, ⟨0x5000, 0xF00F⟩, ⟨0x6000, 0xF000⟩, ⟨0x7000, 0xF000⟩]

/-- Rows 10 to 18 of R64: 8XY0 to 8XY7 and 8XYE. -/
def opcodeRowsAlu : List OpcodeRow :=
  [⟨0x8000, 0xF00F⟩, ⟨0x8001, 0xF00F⟩, ⟨0x8002, 0xF00F⟩, ⟨0x8003, 0xF00F⟩, ⟨0x8004, 0xF00F⟩,
   ⟨0x8005, 0xF00F⟩, ⟨0x8006, 0xF00F⟩, ⟨0x8007, 0xF00F⟩, ⟨0x800E, 0xF00F⟩]

/-- Rows 19 to 25 of R64: 9XY0, ANNN, BNNN, CXNN, DXYN, EX9E, EXA1. -/
def opcodeRowsHigh : List OpcodeRow :=
  [⟨0x9000, 0xF00F⟩, ⟨0xA000, 0xF000⟩, ⟨0xB000, 0xF000⟩, ⟨0xC000, 0xF000⟩, ⟨0xD000, 0xF000⟩,
   ⟨0xE09E, 0xF0FF⟩, ⟨0xE0A1, 0xF0FF⟩]

/-- Rows 26 to 34 of R64: FX07, FX0A, FX15, FX18, FX1E, FX29, FX33, FX55, FX65. -/
def opcodeRowsF : List OpcodeRow :=
  [⟨0xF007, 0xF0FF⟩, ⟨0xF00A, 0xF0FF⟩, ⟨0xF015, 0xF0FF⟩, ⟨0xF018, 0xF0FF⟩, ⟨0xF01E, 0xF0FF⟩,
   ⟨0xF029, 0xF0FF⟩, ⟨0xF033, 0xF0FF⟩, ⟨0xF055, 0xF0FF⟩, ⟨0xF065, 0xF0FF⟩]

/-- The 34 rows of the catalogue in the source's order (R64). -/
def opcodeRows : List OpcodeRow := opcodeRowsLow ++ opcodeRowsAlu ++ opcodeRowsHigh ++ opcodeRowsF

/-- The row of R64 that an instruction is an instance of, none for the fallback. -/
def Instr.row : Instr → Option OpcodeRow
  | .clear => some ⟨0x00E0, 0xFFFF⟩
  | .ret => some ⟨0x00EE, 0xFFFF⟩
  | .jump _ => some ⟨0x1000, 0xF000⟩
  | .call _ => some ⟨0x2000, 0xF000⟩
  | .skipEqLit _ _ => some ⟨0x3000, 0xF000⟩
  | .skipNeLit _ _ => some ⟨0x4000, 0xF000⟩
  | .skipEqReg _ _ => some ⟨0x5000, 0xF00F⟩
  | .setLit _ _ => some ⟨0x6000, 0xF000⟩
  | .addLit _ _ => some ⟨0x7000, 0xF000⟩
  | .assign _ _ => some ⟨0x8000, 0xF00F⟩
  | .orReg _ _ => some ⟨0x8001, 0xF00F⟩
  | .andReg _ _ => some ⟨0x8002, 0xF00F⟩
  | .xorReg _ _ => some ⟨0x8003, 0xF00F⟩
  | .addReg _ _ => some ⟨0x8004, 0xF00F⟩
  | .subReg _ _ => some ⟨0x8005, 0xF00F⟩
  | .shiftRight _ _ => some ⟨0x8006, 0xF00F⟩
  | .subRev _ _ => some ⟨0x8007, 0xF00F⟩
  | .shiftLeft _ _ => some ⟨0x800E, 0xF00F⟩
  | .skipNeReg _ _ => some ⟨0x9000, 0xF00F⟩
  | .setIndex _ => some ⟨0xA000, 0xF000⟩
  | .jumpOffset _ => some ⟨0xB000, 0xF000⟩
  | .random _ _ => some ⟨0xC000, 0xF000⟩
  | .draw _ _ _ => some ⟨0xD000, 0xF000⟩
  | .skipKey _ => some ⟨0xE09E, 0xF0FF⟩
  | .skipNokey _ => some ⟨0xE0A1, 0xF0FF⟩
  | .getDelay _ => some ⟨0xF007, 0xF0FF⟩
  | .waitKey _ => some ⟨0xF00A, 0xF0FF⟩
  | .setDelay _ => some ⟨0xF015, 0xF0FF⟩
  | .setSound _ => some ⟨0xF018, 0xF0FF⟩
  | .addIndex _ => some ⟨0xF01E, 0xF0FF⟩
  | .glyphAddr _ => some ⟨0xF029, 0xF0FF⟩
  | .bcd _ => some ⟨0xF033, 0xF0FF⟩
  | .regDump _ => some ⟨0xF055, 0xF0FF⟩
  | .regLoad _ => some ⟨0xF065, 0xF0FF⟩
  | .unknown _ => none

/-- `W` is an unknown opcode: it selects no row (R66). -/
def isUnknownWord (w : Word) : Bool := !(opcodeRows.any fun r => r.selects w)

/-- Well-formedness. A catalogue instruction is well formed by its types; the fallback carries a word that selects no
row (R66). -/
def Instr.wf : Instr → Bool
  | .clear | .ret | .jump _ | .call _ | .skipEqLit _ _ | .skipNeLit _ _ | .skipEqReg _ _ | .setLit _ _ | .addLit _ _
  | .assign _ _ | .orReg _ _ | .andReg _ _ | .xorReg _ _ | .addReg _ _ | .subReg _ _ | .shiftRight _ _ | .subRev _ _
  | .shiftLeft _ _ | .skipNeReg _ _ | .setIndex _ | .jumpOffset _ | .random _ _ | .draw _ _ _ | .skipKey _
  | .skipNokey _ | .getDelay _ | .waitKey _ | .setDelay _ | .setSound _ | .addIndex _ | .glyphAddr _ | .bcd _
  | .regDump _ | .regLoad _ => true
  | .unknown w => isUnknownWord w

end Sys2Proof
end

