-- ==== Sys2Proof/Decode.lean ====
section
/-! DEFINITION. Decoding (40_step_cycle.md R82, 30_encoding.md R60 to R66) and, after it, encoding. Decoding is total on
words: a word that selects no row decodes to the fallback `unknown`. -/

namespace Sys2Proof

/-- `OP = W[15:12]` (R61). -/
def fieldOp (w : Word) : Nibble := w.extractLsb' 12 4

/-- `X = W[11:8]` (R61). -/
def fieldX (w : Word) : Reg := (w.extractLsb' 8 4).toFin

/-- `Y = W[7:4]` (R61). -/
def fieldY (w : Word) : Reg := (w.extractLsb' 4 4).toFin

/-- `N = W[3:0]` (R61). -/
def fieldN (w : Word) : Nibble := w.extractLsb' 0 4

/-- `NN = W[7:0]` (R61). -/
def fieldNN (w : Word) : Byte := w.extractLsb' 0 8

/-- `NNN = W[11:0]` (R61). -/
def fieldNNN (w : Word) : Addr := w.extractLsb' 0 12

/-- Family 0: exactly the two words 00E0 and 00EE (R64, R65). -/
def decodeFamily0 (w : Word) : Instr :=
  match (fieldNNN w).toNat with
  | 0x0E0 => .clear
  | 0x0EE => .ret
  | _ => .unknown w

/-- Family 5 requires `N = 0` (R65). -/
def decodeFamily5 (w : Word) : Instr :=
  match (fieldN w).toNat with
  | 0x0 => .skipEqReg (fieldX w) (fieldY w)
  | _ => .unknown w

/-- Family 8 requires `N` in 0 to 7 or 0xE (R65). -/
def decodeFamily8 (w : Word) : Instr :=
  match (fieldN w).toNat with
  | 0x0 => .assign (fieldX w) (fieldY w)
  | 0x1 => .orReg (fieldX w) (fieldY w)
  | 0x2 => .andReg (fieldX w) (fieldY w)
  | 0x3 => .xorReg (fieldX w) (fieldY w)
  | 0x4 => .addReg (fieldX w) (fieldY w)
  | 0x5 => .subReg (fieldX w) (fieldY w)
  | 0x6 => .shiftRight (fieldX w) (fieldY w)
  | 0x7 => .subRev (fieldX w) (fieldY w)
  | 0xE => .shiftLeft (fieldX w) (fieldY w)
  | _ => .unknown w

/-- Family 9 requires `N = 0` (R65). -/
def decodeFamily9 (w : Word) : Instr :=
  match (fieldN w).toNat with
  | 0x0 => .skipNeReg (fieldX w) (fieldY w)
  | _ => .unknown w

/-- Family E requires `NN` in 9E, A1 (R65). -/
def decodeFamilyE (w : Word) : Instr :=
  match (fieldNN w).toNat with
  | 0x9E => .skipKey (fieldX w)
  | 0xA1 => .skipNokey (fieldX w)
  | _ => .unknown w

/-- Family F requires `NN` in 07, 0A, 15, 18, 1E, 29, 33, 55, 65 (R65). -/
def decodeFamilyF (w : Word) : Instr :=
  match (fieldNN w).toNat with
  | 0x07 => .getDelay (fieldX w)
  | 0x0A => .waitKey (fieldX w)
  | 0x15 => .setDelay (fieldX w)
  | 0x18 => .setSound (fieldX w)
  | 0x1E => .addIndex (fieldX w)
  | 0x29 => .glyphAddr (fieldX w)
  | 0x33 => .bcd (fieldX w)
  | 0x55 => .regDump (fieldX w)
  | 0x65 => .regLoad (fieldX w)
  | _ => .unknown w

/-- `decode(W)`: the family by the top nibble, then the subfield (R82). Total and pure. -/
def decode (w : Word) : Instr :=
  match (fieldOp w).toNat with
  | 0x0 => decodeFamily0 w
  | 0x1 => .jump (fieldNNN w)
  | 0x2 => .call (fieldNNN w)
  | 0x3 => .skipEqLit (fieldX w) (fieldNN w)
  | 0x4 => .skipNeLit (fieldX w) (fieldNN w)
  | 0x5 => decodeFamily5 w
  | 0x6 => .setLit (fieldX w) (fieldNN w)
  | 0x7 => .addLit (fieldX w) (fieldNN w)
  | 0x8 => decodeFamily8 w
  | 0x9 => decodeFamily9 w
  | 0xA => .setIndex (fieldNNN w)
  | 0xB => .jumpOffset (fieldNNN w)
  | 0xC => .random (fieldX w) (fieldNN w)
  | 0xD => .draw (fieldX w) (fieldY w) (fieldN w)
  | 0xE => decodeFamilyE w
  | _ => decodeFamilyF w

/-- The word `{hi, lo}` of two consecutive bytes, the byte at the lower address in bits 15:8 (20_memory.md R44). -/
def wordOfBytes (hi lo : Byte) : Word := hi ++ lo

/-- Why a sequence of bytes gives no instruction: it is shorter than the one 16-bit word every instruction is (R60). -/
inductive DecodeError where
  | fewerThanTwoBytes
  deriving DecidableEq, Repr

/-- Decoding from a sequence of bytes, lowest address first: the instruction and the bytes after it (R44, R60). -/
def decodeBytes : List Byte → Except DecodeError (Instr × List Byte)
  | hi :: lo :: rest => .ok (decode (wordOfBytes hi lo), rest)
  | [_] => .error .fewerThanTwoBytes
  | [] => .error .fewerThanTwoBytes

/-- A word as the hardware stores it, high byte first (R44). -/
def bytesOfWord (w : Word) : List Byte := [w.extractLsb' 8 8, w.extractLsb' 0 8]

/-- The bytes of the instruction whose bits are `w`, numbered as spec/opcode_table.json numbers them (bit 0 the least
significant of the word), bits from `nbits` up being 0, laid out as the hardware stores them. -/
def tableBytes (nbits w : Nat) : List Byte := bytesOfWord (BitVec.ofNat 16 (w % 2 ^ nbits))

/-- The instruction the decoder reads from the table word `w` of `nbits` bits. -/
def decodeTableWord (nbits w : Nat) : Option Instr :=
  match decodeBytes (tableBytes nbits w) with
  | .ok (i, _) => some i
  | .error _ => none

/-- Format `NNN`: `OP NNN` (R62). -/
def encodeNNN (op : Nat) (nnn : Addr) : Word := BitVec.ofNat 16 (op * 0x1000 + nnn.toNat)

/-- Format `XNN`: `OP X NN`, and format `X` with `NN` the fixed low byte (R62). -/
def encodeXNN (op : Nat) (x : Reg) (nn : Byte) : Word := BitVec.ofNat 16 (op * 0x1000 + x.val * 0x100 + nn.toNat)

/-- Format `XYN`: `OP X Y N`, and format `XY` with `N` the fixed sub-opcode (R62). -/
def encodeXYN (op : Nat) (x y : Reg) (n : Nibble) : Word :=
  BitVec.ofNat 16 (op * 0x1000 + x.val * 0x100 + y.val * 0x10 + n.toNat)

/-- The word of an instruction, written from the catalogue's patterns (R62, R64). -/
def encode : Instr → Word
  | .clear => 0x00E0
  | .ret => 0x00EE
  | .jump nnn => encodeNNN 0x1 nnn
  | .call nnn => encodeNNN 0x2 nnn
  | .skipEqLit x nn => encodeXNN 0x3 x nn
  | .skipNeLit x nn => encodeXNN 0x4 x nn
  | .skipEqReg x y => encodeXYN 0x5 x y 0x0
  | .setLit x nn => encodeXNN 0x6 x nn
  | .addLit x nn => encodeXNN 0x7 x nn
  | .assign x y => encodeXYN 0x8 x y 0x0
  | .orReg x y => encodeXYN 0x8 x y 0x1
  | .andReg x y => encodeXYN 0x8 x y 0x2
  | .xorReg x y => encodeXYN 0x8 x y 0x3
  | .addReg x y => encodeXYN 0x8 x y 0x4
  | .subReg x y => encodeXYN 0x8 x y 0x5
  | .shiftRight x y => encodeXYN 0x8 x y 0x6
  | .subRev x y => encodeXYN 0x8 x y 0x7
  | .shiftLeft x y => encodeXYN 0x8 x y 0xE
  | .skipNeReg x y => encodeXYN 0x9 x y 0x0
  | .setIndex nnn => encodeNNN 0xA nnn
  | .jumpOffset nnn => encodeNNN 0xB nnn
  | .random x nn => encodeXNN 0xC x nn
  | .draw x y n => encodeXYN 0xD x y n
  | .skipKey x => encodeXNN 0xE x 0x9E
  | .skipNokey x => encodeXNN 0xE x 0xA1
  | .getDelay x => encodeXNN 0xF x 0x07
  | .waitKey x => encodeXNN 0xF x 0x0A
  | .setDelay x => encodeXNN 0xF x 0x15
  | .setSound x => encodeXNN 0xF x 0x18
  | .addIndex x => encodeXNN 0xF x 0x1E
  | .glyphAddr x => encodeXNN 0xF x 0x29
  | .bcd x => encodeXNN 0xF x 0x33
  | .regDump x => encodeXNN 0xF x 0x55
  | .regLoad x => encodeXNN 0xF x 0x65
  | .unknown w => w

/-- The two bytes of an instruction as the hardware stores them (R44, R60). -/
def encodeBytes (i : Instr) : List Byte := bytesOfWord (encode i)

end Sys2Proof
end

