-- ==== Sys2Proof/Config.lean ====
section
/-! DEFINITION. The parameters of 00_scope.md R4, and the one free value: the random byte of CXNN. The glyph table, an OPEN
parameter, is an argument of `construct`. Its default stands in Machine/Memory.lean. -/

namespace Sys2Proof.Config

/-- `MEM_SIZE`: 4096 bytes, addresses 0x000 to 0xFFF (R4, R40). -/
def memSize : Nat := 4096

/-- `ADDR_MAX`: the highest valid byte address (R4). -/
def addrMax : Nat := 0xFFF

/-- `GLYPH_SIZE`: 16 glyphs of 5 bytes (R4, R43). -/
def glyphSize : Nat := 80

/-- `PROG_BASE`: the load address and the reset value of PC (R4). -/
def progBase : Nat := 0x200

/-- `ROM_MAX`: the largest program, `MEM_SIZE - PROG_BASE` (R4, R240). -/
def romMax : Nat := 3584

/-- `FETCH_MAX`: the largest PC at which a fetch succeeds (R4, R81). -/
def fetchMax : Nat := 4094

/-- FREE VALUE. The `n`-th byte drawn by `random_byte()`: the spec gives no generator, seed or period (R131, D12), so
nothing constrains it. `State.draws` counts the draws, so every executed CXNN reads a fresh one.
DESIGN CHOICE, log 2. Safe: a claim holds whatever the bytes are. -/
opaque randomByte : Nat → Byte

end Sys2Proof.Config
end

