-- ==== Sys2Proof/Machine/State.lean ====
section
/-! DEFINITION. The architectural state, whole (10_state.md R10), the reasons a step can stop, and the state after reset
(70_reset_and_hazards.md R240, R241). -/

namespace Sys2Proof.Machine

/-- The await-key state machine (R21). -/
inductive Mode where
  | running
  | awaitingKey
  deriving DecidableEq, Repr

/-- One row of the framebuffer: 64 one-bit cells, column 0 first (R19). -/
abbrev PixelRow := Vector Bool 64

/-- `FB`: 32 rows of 64 one-bit cells, row 0 first (R19). -/
abbrev Framebuffer := Vector PixelRow 32

/-- `MEM` as a list of address and byte pairs in one canonical form: see Machine/Memory.lean. -/
abbrev Memory := List Host.Cell

/-- The machine's state: the tuple of R10, and the model's own counter of random draws. -/
structure State where
  /-- `V[0..15]`, 8 bits each, VF the last (R11, R12). -/
  v : Vector Byte 16
  /-- `I`, 16 bits (R13). -/
  i : Word
  /-- `PC`, 16 bits (R14). -/
  pc : Word
  /-- `STACK[0..15]`, 16 bits each (R15). -/
  stack : Vector Word 16
  /-- `SP`, an integer 0 to 16 (R15). -/
  sp : Fin 17
  /-- `DT`, the delay counter (R16). -/
  dt : Byte
  /-- `ST`, the sound counter (R17). -/
  st : Byte
  /-- `KEY[0..15]`, true when pressed (R18). -/
  key : Vector Bool 16
  /-- `FB` (R19). -/
  fb : Framebuffer
  /-- `DIRTY` (R20). -/
  dirty : Bool
  /-- `MODE` (R21). -/
  mode : Mode
  /-- `WAITREG`, meaningful while awaiting a key (R21). -/
  waitReg : Reg
  /-- `MEM[0..4095]` (R22). -/
  mem : Memory
  /-- The model's own field: how many random bytes have been drawn (R131, log 2). -/
  draws : Nat
  deriving DecidableEq, Repr

/-- What an `AddressOutOfRange` reports: the offending value and which of the three it is (R200, R201). -/
inductive RangeCause where
  /-- A fetch with `PC > 4094` (R81). -/
  | fetch (pc : Word)
  /-- A data access from base `I` that reaches above 0xFFF (R49). -/
  | data (base : Word)
  /-- A key index above 15 (R187). -/
  | key (index : Byte)
  deriving DecidableEq, Repr

/-- The fatal error kinds of R200, as results of an event: there is no handler inside the machine. -/
inductive Fault where
  /-- Raised by `construct` alone, never by a step: the program is longer than 3584 bytes (R205, R242). Safe: the spec's
  own error. -/
  | romTooLarge (length : Nat)
  /-- Raised by the fetch, by DXYN, FX33, FX55, FX65 and by EX9E, EXA1 (R201). Safe: the spec's own error, for the data
  accesses and the key index by its decisions D6 and D7 (log 9, log 10). -/
  | addressOutOfRange (cause : RangeCause)
  /-- Raised by 2NNN with `SP = 16`, with the address of the CALL (R202). Safe: the spec's own error. -/
  | stackOverflow (callAt : Word)
  /-- Raised by 00EE with `SP = 0`, with the address of the RETURN (R203). Safe: the spec's own error. -/
  | stackUnderflow (returnAt : Word)
  deriving DecidableEq, Repr

/-- Why the model gives an instruction no meaning. -/
inductive Refusal where
  /-- Raised by an arm of `exec` whose instruction has no meaning in the model yet. Safe. No arm does at present. -/
  | notModelled (mnemonic : String)
  deriving DecidableEq, Repr

/-- What an instruction's meaning answers. -/
abbrev Result := Host.Outcome State Fault Refusal

/-- The state right after a successful `construct` of the empty program with the default glyph table (R240, R241):
memory lists nothing, since an unlisted address reads as it does after that construction. `draws` is the model's own
(DESIGN CHOICE, log 2). -/
def State.reset : State where
  v := Vector.replicate 16 0
  i := 0
  pc := 0x0200
  stack := Vector.replicate 16 0
  sp := 0
  dt := 0
  st := 0
  key := Vector.replicate 16 false
  fb := Vector.replicate 32 (Vector.replicate 64 false)
  dirty := false
  mode := .running
  waitReg := 0
  mem := []
  draws := 0

end Sys2Proof.Machine
end

