-- ==== Sys2Proof/Machine/Memory.lean ====
section
/-! DEFINITION. The one memory (20_memory.md R40 to R57): what an unlisted address reads as, the canonical form of the
list, and reading and writing one byte and a run of bytes. -/

namespace Sys2Proof.Machine

/-- The default of the parameter `GLYPH_TABLE`: the sprites of the sixteen hexadecimal digits, five bytes each (R43).
PRESUMED, log 1: the source never lists the bytes and the spec takes them from general knowledge. -/
def defaultGlyphs : List Byte :=
  [0xF0, 0x90, 0x90, 0x90, 0xF0] ++ [0x20, 0x60, 0x20, 0x20, 0x70] ++
  [0xF0, 0x10, 0xF0, 0x80, 0xF0] ++ [0xF0, 0x10, 0xF0, 0x10, 0xF0] ++
  [0x90, 0x90, 0xF0, 0x10, 0x10] ++ [0xF0, 0x80, 0xF0, 0x10, 0xF0] ++
  [0xF0, 0x80, 0xF0, 0x90, 0xF0] ++ [0xF0, 0x10, 0x20, 0x40, 0x40] ++
  [0xF0, 0x90, 0xF0, 0x90, 0xF0] ++ [0xF0, 0x90, 0xF0, 0x10, 0xF0] ++
  [0xF0, 0x90, 0xF0, 0x90, 0x90] ++ [0xE0, 0x90, 0xE0, 0x90, 0xE0] ++
  [0xF0, 0x80, 0x80, 0x80, 0xF0] ++ [0xE0, 0x90, 0x90, 0x90, 0xE0] ++
  [0xF0, 0x80, 0xF0, 0x80, 0xF0] ++ [0xF0, 0x80, 0xF0, 0x80, 0x80]

/-- The default glyph table as the argument `construct` takes: 80 bytes (R4, R43, log 1). -/
def defaultGlyphTable : Vector Byte 80 := ⟨defaultGlyphs.toArray, rfl⟩

/-- What an unlisted address reads as: the contents after construction with the empty program and the default glyph
table, the table at 0x000 to 0x04F and zero elsewhere (R42, R241). -/
def memBackground (a : Nat) : Byte := defaultGlyphs.getD a 0

/-- The entries, if any, that say address `a` holds `b`: none where `a` reads as `b` unlisted. -/
def memCell (a : Nat) (b : Byte) : Memory := if b = memBackground a then [] else [(a, b)]

/-- `MEM[a]`, with no check (R6). -/
def Memory.read : Memory → Nat → Byte
  | [], a => memBackground a
  | c :: m, a => if c.1 = a then c.2 else Memory.read m a

/-- `MEM[a] <- b`, with no check (R6, R41), keeping the canonical form. -/
def Memory.write : Memory → Nat → Byte → Memory
  | [], a, b => memCell a b
  | c :: m, a, b =>
    if a < c.1 then memCell a b ++ c :: m
    else if a = c.1 then memCell a b ++ m
    else c :: Memory.write m a b

/-- `[MEM[a], ..., MEM[a+n-1]]`, lowest address first (R41). -/
def Memory.readBytes (m : Memory) (a : Nat) : Nat → List Byte
  | 0 => []
  | n + 1 => m.read a :: Memory.readBytes m (a + 1) n

/-- `MEM[a+k] <- bytes[k]`, in ascending order (R41, R45). -/
def Memory.writeBytes (m : Memory) (a : Nat) : List Byte → Memory
  | [] => m
  | b :: bs => Memory.writeBytes (m.write a b) (a + 1) bs

/-- Every listed address is above `lo` minus one, in range, in rising order, and holds what it does not hold unlisted. -/
def Memory.wfFrom : Nat → Memory → Bool
  | _, [] => true
  | lo, c :: m => decide (lo ≤ c.1) && decide (c.1 < Config.memSize) && decide (c.2 ≠ memBackground c.1) &&
      Memory.wfFrom (c.1 + 1) m

/-- The canonical form: addresses strictly rising and below 4096, no entry equal to what its address reads as
unlisted. Equal memories are then equal lists. -/
def Memory.wf (m : Memory) : Bool := Memory.wfFrom 0 m

end Sys2Proof.Machine
end

