-- ==== Sys2Proof/Machine/Ops.lean ====
section
/-! DEFINITION. The named operations the meanings are written over: registers, the PC policy (40_step_cycle.md R83), the
memory access primitives (20_memory.md R41), raising an error (60_exceptions.md R206), the call stack, the framebuffer,
the fetch (R81). -/

namespace Sys2Proof.Machine

/-! ## Registers -/

/-- `V[r]` (R6, R11). -/
def State.reg (s : State) (r : Reg) : Byte := s.v[r]

/-- `V[r] <- b` (R6, R11). -/
def State.setReg (s : State) (r : Reg) (b : Byte) : State := { s with v := s.v.set r b }

/-- `I <- w` (R13). -/
def State.setIndex (s : State) (w : Word) : State := { s with i := w }

/-- `DT <- b` (R16). -/
def State.setDelay (s : State) (b : Byte) : State := { s with dt := b }

/-- `ST <- b` (R17). -/
def State.setSound (s : State) (b : Byte) : State := { s with st := b }

/-- `V[k] <- bytes[0]`, `V[k+1] <- bytes[1]`, and so on (R145). -/
def State.setRegs (s : State) (k : Nat) : List Byte → State
  | [] => s
  | b :: bs => State.setRegs (s.setReg (Fin.ofNat 16 k) b) (k + 1) bs

/-- `[V[0], ..., V[n-1]]` (R144). -/
def State.regList (s : State) (n : Nat) : List Byte := (List.range n).map fun k => s.reg (Fin.ofNat 16 k)

/-! ## The program counter -/

/-- `PC <- w`, an explicit target: the default advance does not happen (R83). -/
def State.setPc (s : State) (w : Word) : State := { s with pc := w }

/-- The default class: `PC <- PC0 + 2` (R83). -/
def State.advance (s : State) : State := s.setPc (s.pc + 2)

/-- The skip class: `PC <- PC0 + 4` when the condition holds, `PC <- PC0 + 2` otherwise (R83, R108). -/
def State.skipIf (s : State) (c : Bool) : State := s.setPc (if c then s.pc + 4 else s.pc + 2)

/-! ## Errors -/

/-- `raise E(info)` (R6, R206): the whole of taking an exception on this machine. The event ends with the error, and no
state is saved because none changes: there is no cause register, vector, handler or mode change. There is no return from
an exception either (R210): the host stops or constructs anew. `deliver` (Machine/Events.lean) keeps the state. -/
def raise (f : Fault) : Result := .fault f

/-- An operation that may raise, followed by what is done with its value: the checks of an instruction come before its
first write (R86). -/
def orRaise {α : Type} (r : Except Fault α) (k : α → Result) : Result :=
  match r with
  | .ok a => k a
  | .error f => raise f

/-! ## Memory -/

/-- The bound on an access of `n` bytes at `addr`, computed without wrapping (R41): with `n = 0` nothing is checked. -/
def accessInRange (addr : Word) (n : Nat) : Bool := n == 0 || decide (addr.toNat + n - 1 ≤ Config.addrMax)

/-- `MemRead(addr, n)` (R41). -/
def memRead (s : State) (addr : Word) (n : Nat) : Except Fault (List Byte) :=
  if accessInRange addr n then .ok (s.mem.readBytes addr.toNat n) else .error (.addressOutOfRange (.data addr))

/-- `MemWrite(addr, n, bytes)`, `n` the number of bytes (R41): all or nothing. -/
def memWrite (s : State) (addr : Word) (bytes : List Byte) : Except Fault State :=
  if accessInRange addr bytes.length then .ok { s with mem := s.mem.writeBytes addr.toNat bytes }
  else .error (.addressOutOfRange (.data addr))

/-! ## The call stack -/

/-- `STACK[SP] <- w`, `SP <- SP + 1`, or `StackOverflow` when all 16 slots are in use (R15, R102). -/
def pushStack (s : State) (w : Word) : Except Fault State :=
  if h : s.sp.val < 16 then
    .ok { s with stack := s.stack.set s.sp.val w, sp := ⟨s.sp.val + 1, by omega⟩ }
  else .error (.stackOverflow s.pc)

/-- `SP <- SP - 1` and the value of `STACK[SP]` then, or `StackUnderflow` when `SP = 0` (R15, R100). The vacated slot
keeps its contents. -/
def popStack (s : State) : Except Fault (Word × State) :=
  if h : 0 < s.sp.val then
    .ok (s.stack[s.sp.val - 1], { s with sp := ⟨s.sp.val - 1, by omega⟩ })
  else .error (.stackUnderflow s.pc)

/-! ## The framebuffer -/

/-- `FB[y][x]`, column `x`, row `y` (R19). -/
def Framebuffer.pixel (fb : Framebuffer) (y : Fin 32) (x : Fin 64) : Bool := fb[y][x]

/-- `FB[y][x] <- FB[y][x] xor 1` (R161). -/
def Framebuffer.toggle (fb : Framebuffer) (y : Fin 32) (x : Fin 64) : Framebuffer :=
  fb.set y (fb[y].set x (!fb[y][x]))

/-- Every cell 0 (R160). -/
def Framebuffer.blank : Framebuffer := Vector.replicate 32 (Vector.replicate 64 false)

/-- `FB <- fb`, `DIRTY <- 1`: every write of the framebuffer by an instruction marks it dirty (R20). -/
def State.paint (s : State) (fb : Framebuffer) : State := { s with fb := fb, dirty := true }

/-! ## The fetch -/

/-- `{ MEM[PC], MEM[PC+1] }`, with no check (R44, R81). -/
def fetchWord (s : State) : Word := wordOfBytes (s.mem.read s.pc.toNat) (s.mem.read (s.pc.toNat + 1))

/-- `fetch()`: needs `PC ≤ 4094`, compared on all 16 bits (R81). -/
def fetch (s : State) : Except Fault Word :=
  if s.pc.toNat ≤ Config.fetchMax then .ok (fetchWord s) else .error (.addressOutOfRange (.fetch s.pc))

end Sys2Proof.Machine
end

