-- ==== Sys2Proof/Machine/Flags.lean ====
section
/-! DEFINITION. The flag computations of 42_alu.md R132 and the order in which a result and its flag are written
(R133). -/

namespace Sys2Proof.Machine

/-- The flag as it is written to VF: 0x00 or 0x01 (R12). -/
def flagByte (f : Bool) : Byte := if f then 1 else 0

/-- Carry out of the 8-bit addition: the integer sum exceeds 255 (R132). -/
def carryOut (a b : Byte) : Bool := decide (255 < a.toNat + b.toNat)

/-- No borrow in `a - b`: `a >= b` (R132). -/
def noBorrow (a b : Byte) : Bool := decide (b.toNat ≤ a.toNat)

/-- The bit a right shift by one shifts out: `a[0]` (R132). -/
def shiftedOutRight (a : Byte) : Bool := a.getLsbD 0

/-- The bit a left shift by one shifts out: `a[7]` (R132). -/
def shiftedOutLeft (a : Byte) : Bool := a.getLsbD 7

/-- `VF <- flag` (R12). -/
def State.setFlag (s : State) (f : Bool) : State := s.setReg Reg.flag (flagByte f)

/-- The result to `V[X]`, then the flag to VF: with `X = F` the flag is what stays (R133, the spec's decision D4,
log 7). -/
def State.setResultAndFlag (s : State) (x : Reg) (b : Byte) (f : Bool) : State := (s.setReg x b).setFlag f

end Sys2Proof.Machine
end

