-- ==== Sys2Proof/Machine/Alu.lean ====
section
/-! DEFINITION. Register load, arithmetic, logic, shift and random (42_alu.md R120 to R134). All advance PC by 2. -/

namespace Sys2Proof.Machine

/-- 6XNN SET-LIT (R120). -/
def execSetLit (x : Reg) (nn : Byte) (s : State) : Result := .next (s.setReg x nn).advance

/-- 7XNN ADD-LIT (R121): modulo 256, no flag. -/
def execAddLit (x : Reg) (nn : Byte) (s : State) : Result := .next (s.setReg x (s.reg x + nn)).advance

/-- 8XY0 ASSIGN (R122). -/
def execAssign (x y : Reg) (s : State) : Result := .next (s.setReg x (s.reg y)).advance

/-- 8XY1 OR (R123). -/
def execOrReg (x y : Reg) (s : State) : Result := .next (s.setReg x (s.reg x ||| s.reg y)).advance

/-- 8XY2 AND (R124). -/
def execAndReg (x y : Reg) (s : State) : Result := .next (s.setReg x (s.reg x &&& s.reg y)).advance

/-- 8XY3 XOR (R125). -/
def execXorReg (x y : Reg) (s : State) : Result := .next (s.setReg x (s.reg x ^^^ s.reg y)).advance

/-- 8XY4 ADD-REG (R126). -/
def execAddReg (x y : Reg) (s : State) : Result :=
  .next (s.setResultAndFlag x (s.reg x + s.reg y) (carryOut (s.reg x) (s.reg y))).advance

/-- 8XY5 SUB-REG (R127). -/
def execSubReg (x y : Reg) (s : State) : Result :=
  .next (s.setResultAndFlag x (s.reg x - s.reg y) (noBorrow (s.reg x) (s.reg y))).advance

/-- 8XY6 SHIFT-RIGHT (R128): `V[X]` in place, the field `Y` unused. -/
def execShiftRight (x _y : Reg) (s : State) : Result :=
  .next (s.setResultAndFlag x (s.reg x >>> 1) (shiftedOutRight (s.reg x))).advance

/-- 8XY7 SUB-REV (R129): `V[Y] - V[X]`. -/
def execSubRev (x y : Reg) (s : State) : Result :=
  .next (s.setResultAndFlag x (s.reg y - s.reg x) (noBorrow (s.reg y) (s.reg x))).advance

/-- 8XYE SHIFT-LEFT (R130): `V[X]` in place, the field `Y` unused. -/
def execShiftLeft (x _y : Reg) (s : State) : Result :=
  .next (s.setResultAndFlag x (s.reg x <<< 1) (shiftedOutLeft (s.reg x))).advance

/-- The next random byte, `draw8()`, and the state in which it has been drawn (R131, log 2). -/
def drawByte (s : State) : Byte × State := (Config.randomByte s.draws, { s with draws := s.draws + 1 })

/-- CXNN RANDOM (R131): `NN` and a fresh unconstrained byte. -/
def execRandom (x : Reg) (nn : Byte) (s : State) : Result :=
  .next ((drawByte s).2.setReg x (nn &&& (drawByte s).1)).advance

end Sys2Proof.Machine
end

