-- ==== Sys2Proof/Machine/Operands.lean ====
section
/-! DEFINITION. The operand forms that are more than a register or a literal as it stands: zero-extension
(30_encoding.md R63), the key index (45_keypad_timers.md R187), the glyph address (43_index_memory.md R142), the decimal
digits (R143), the sprite coordinates (44_display.md R163). -/

namespace Sys2Proof.Machine

/-- `zext_16(NNN)` (R63). -/
def zextAddr (nnn : Addr) : Word := nnn.setWidth 16

/-- `zext_16(V[r])` (R27, R63). -/
def zextReg (s : State) (r : Reg) : Word := (s.reg r).setWidth 16

/-- The key index of EX9E and EXA1: the contents of `V[X]`, an error above 15, never masked (R187). -/
def keyIndex (s : State) (x : Reg) : Except Fault (Fin 16) :=
  if h : (s.reg x).toNat < 16 then .ok ⟨(s.reg x).toNat, h⟩ else .error (.addressOutOfRange (.key (s.reg x)))

/-- `KEY[k] = 1` (R18). -/
def State.pressed (s : State) (k : Fin 16) : Bool := s.key[k]

/-- The least pressed key, if any is (R183). -/
def lowestPressed (s : State) : Option (Fin 16) := (List.finRange 16).find? s.pressed

/-- `zext_16(V[X]) * 5`, the whole byte multiplied (R142). -/
def glyphAddress (b : Byte) : Word := b.setWidth 16 * 5

/-- The three decimal digits of a byte, each in a byte of its own, hundreds first (R143). -/
def decimalDigits (b : Byte) : List Byte :=
  [BitVec.ofNat 8 (b.toNat / 100), BitVec.ofNat 8 (b.toNat / 10 % 10), BitVec.ofNat 8 (b.toNat % 10)]

/-- `(x0 + col) mod 64` (R161, R163). -/
def spriteColumn (x0 : Byte) (col : Nat) : Fin 64 := Fin.ofNat 64 (x0.toNat + col)

/-- `(y0 + row) mod 32` (R161, R163). -/
def spriteRow (y0 : Byte) (row : Nat) : Fin 32 := Fin.ofNat 32 (y0.toNat + row)

end Sys2Proof.Machine
end

