-- ==== Sys2Proof/Machine/Control.lean ====
section
/-! DEFINITION. Control transfer (41_control_transfer.md): RETURN, JUMP, CALL, JUMP-OFFSET and the four compare-and-skip
instructions. -/

namespace Sys2Proof.Machine

/-- 00EE RETURN (R100): the popped value is the new PC as it is. -/
def execRet (s : State) : Result := orRaise (popStack s) fun p => .next (p.2.setPc p.1)

/-- 1NNN JUMP (R101). -/
def execJump (nnn : Addr) (s : State) : Result := .next (s.setPc (zextAddr nnn))

/-- 2NNN CALL (R102): pushes `PC0 + 2`. -/
def execCall (nnn : Addr) (s : State) : Result :=
  orRaise (pushStack s (s.pc + 2)) fun t => .next (t.setPc (zextAddr nnn))

/-- BNNN JUMP-OFFSET (R103): always V0, the full 16-bit sum. -/
def execJumpOffset (nnn : Addr) (s : State) : Result := .next (s.setPc (zextAddr nnn + zextReg s 0))

/-- 3XNN SKIP-EQ-LIT (R104, R108). -/
def execSkipEqLit (x : Reg) (nn : Byte) (s : State) : Result := .next (s.skipIf (s.reg x == nn))

/-- 4XNN SKIP-NE-LIT (R105, R108). -/
def execSkipNeLit (x : Reg) (nn : Byte) (s : State) : Result := .next (s.skipIf (s.reg x != nn))

/-- 5XY0 SKIP-EQ-REG (R106, R108). -/
def execSkipEqReg (x y : Reg) (s : State) : Result := .next (s.skipIf (s.reg x == s.reg y))

/-- 9XY0 SKIP-NE-REG (R107, R108). -/
def execSkipNeReg (x y : Reg) (s : State) : Result := .next (s.skipIf (s.reg x != s.reg y))

end Sys2Proof.Machine
end

