-- ==== Sys2Proof/Machine/Display.lean ====
section
/-! DEFINITION. Display (44_display.md R160 to R164): CLEAR, and DRAW with its sprite blit written as the rule's loops. -/

namespace Sys2Proof.Machine

/-- 00E0 CLEAR (R160). -/
def execClear (s : State) : Result := .next (s.paint Framebuffer.blank).advance

/-- The body of DRAW's loops for one sprite bit that is 1 (R161): note a hit where the cell is set, toggle the cell. -/
def blitBit (x0 y0 : Byte) (row col : Nat) (acc : Framebuffer × Bool) : Framebuffer × Bool :=
  (acc.1.toggle (spriteRow y0 row) (spriteColumn x0 col), acc.2 || acc.1.pixel (spriteRow y0 row) (spriteColumn x0 col))

/-- The loop over the eight columns of a sprite row, bit 7 at column 0 (R161). -/
def blitRow (x0 y0 : Byte) (row : Nat) (bits : Byte) (acc : Framebuffer × Bool) : Framebuffer × Bool :=
  (List.range 8).foldl (fun a col => if bits.getLsbD (7 - col) then blitBit x0 y0 row col a else a) acc

/-- The loop over the rows of a sprite, from row `row` on (R161). -/
def blitRows (x0 y0 : Byte) : Nat → List Byte → Framebuffer × Bool → Framebuffer × Bool
  | _, [], acc => acc
  | row, bits :: rest, acc => blitRows x0 y0 (row + 1) rest (blitRow x0 y0 row bits acc)

/-- DXYN DRAW (R161): coordinates and rows first, then the cells, then VF (always written, R162, the spec's decision D5,
log 8) and DIRTY. -/
def execDraw (x y : Reg) (n : Nibble) (s : State) : Result :=
  orRaise (memRead s s.i n.toNat) fun rows =>
    let drawn := blitRows (s.reg x) (s.reg y) 0 rows (s.fb, false)
    .next ((s.paint drawn.1).setFlag drawn.2).advance

end Sys2Proof.Machine
end

