-- ==== Sys2Proof/Machine/Fallback.lean ====
section
/-! DEFINITION. The unknown-opcode fallback (40_step_cycle.md R85). -/

namespace Sys2Proof.Machine

/-- UNKNOWN (R85): a no-op that advances PC by 2. The `unknown_opcode` event it emits is an output, not state:
`stepOutputs` in Machine/Events.lean. -/
def execUnknown (_w : Word) (s : State) : Result := .next s.advance

end Sys2Proof.Machine
end

