-- ==== Sys2Proof/Machine/IndexMemory.lean ====
section
/-! DEFINITION. Index register and memory transfer (43_index_memory.md R140 to R146). All advance PC by 2 on success; a
transfer leaves `I` as it was (R146, the spec's decision D24, log 16). -/

namespace Sys2Proof.Machine

/-- ANNN SET-INDEX (R140). -/
def execSetIndex (nnn : Addr) (s : State) : Result := .next (s.setIndex (zextAddr nnn)).advance

/-- FX1E ADD-INDEX (R141): modulo 65536, no flag. -/
def execAddIndex (x : Reg) (s : State) : Result := .next (s.setIndex (s.i + zextReg s x)).advance

/-- FX29 GLYPH-ADDR (R142): no memory access. -/
def execGlyphAddr (x : Reg) (s : State) : Result := .next (s.setIndex (glyphAddress (s.reg x))).advance

/-- FX33 BCD (R143). -/
def execBcd (x : Reg) (s : State) : Result :=
  orRaise (memWrite s s.i (decimalDigits (s.reg x))) fun t => .next t.advance

/-- FX55 REG-DUMP (R144): `V[0]` to `V[X]`, `X` the field itself. -/
def execRegDump (x : Reg) (s : State) : Result :=
  orRaise (memWrite s s.i (s.regList (x.val + 1))) fun t => .next t.advance

/-- FX65 REG-LOAD (R145): `V[0]` to `V[X]`, `X` the field itself. -/
def execRegLoad (x : Reg) (s : State) : Result :=
  orRaise (memRead s s.i (x.val + 1)) fun bytes => .next (s.setRegs 0 bytes).advance

end Sys2Proof.Machine
end

