-- ==== Sys2Proof/Machine/KeypadTimers.lean ====
section
/-! DEFINITION. Keypad and timer instructions, and the poll of the await-key state machine (45_keypad_timers.md R180 to
R187). -/

namespace Sys2Proof.Machine

/-- EX9E SKIP-KEY (R180). -/
def execSkipKey (x : Reg) (s : State) : Result :=
  orRaise (keyIndex s x) fun k => .next (s.skipIf (s.pressed k))

/-- EXA1 SKIP-NOKEY (R181). -/
def execSkipNokey (x : Reg) (s : State) : Result :=
  orRaise (keyIndex s x) fun k => .next (s.skipIf (!s.pressed k))

/-- FX0A WAIT-KEY (R182): records the destination and waits; PC is held, no key is looked at. -/
def execWaitKey (x : Reg) (s : State) : Result := .next { s with waitReg := x, mode := .awaitingKey }

/-- FX07 GET-DELAY (R184). -/
def execGetDelay (x : Reg) (s : State) : Result := .next (s.setReg x s.dt).advance

/-- FX15 SET-DELAY (R185). -/
def execSetDelay (x : Reg) (s : State) : Result := .next (s.setDelay (s.reg x)).advance

/-- FX18 SET-SOUND (R186): no beep, whatever the values. -/
def execSetSound (x : Reg) (s : State) : Result := .next (s.setSound (s.reg x)).advance

/-- The poll (R183): with no key pressed nothing changes; otherwise the least pressed index goes to `V[WAITREG]`, PC
advances by 2 and the machine runs again. No fetch, so it cannot raise (R88). -/
def poll (s : State) : State :=
  match lowestPressed s with
  | none => s
  | some k => { (s.setReg s.waitReg (BitVec.ofNat 8 k.val)).advance with mode := .running }

end Sys2Proof.Machine
end

