-- ==== Sys2Proof/Machine/Step.lean ====
section
/-! DEFINITION. The `step` event (40_step_cycle.md R80), and a state whose next step runs a given word. -/

namespace Sys2Proof.Machine

/-- `step()` (R80): a poll while awaiting a key, otherwise one instruction fetched, decoded and executed. A step that
raises has no effect: it answers the error, and the state before it stands (R86, R206). -/
def step (s : State) : Host.Outcome State Fault Refusal :=
  match s.mode with
  | .awaitingKey => .next (poll s)
  | .running => orRaise (fetch s) fun w => exec (decode w) s

/-- Where the next fetch is made to read: PC, or the entry point where PC is beyond the last address a fetch succeeds
at (log 4). -/
def State.fetchPlace (s : State) : Word :=
  if s.pc.toNat ≤ Config.fetchMax then s.pc else BitVec.ofNat 16 Config.progBase

/-- `s` with the word stored where the next step fetches, and running, since a waiting machine fetches nothing
(R88). It stands for a program loaded by `construct` (log 4). -/
def State.withFetchWord (s : State) (nbits w : Nat) : State :=
  { s with
    mode := .running
    pc := s.fetchPlace
    mem := s.mem.writeBytes s.fetchPlace.toNat (tableBytes nbits w) }

end Sys2Proof.Machine
end

