-- ==== Sys2Proof/Machine/Events.lean ====
section
/-! DEFINITION. The events through which the host drives the core, beside `step` (00_scope.md R7, 60_exceptions.md R213
to R219, 70_reset_and_hazards.md R240), with the answers and the output pulses they give. -/

namespace Sys2Proof.Machine

/-- An output pulse: it is not state (R6, R24). -/
inductive Output where
  /-- The sound timer went from 1 to 0 (R214). -/
  | beep
  /-- An unknown opcode was executed: the word and the address it was fetched from (R85, R204). -/
  | unknownOpcode (word addr : Word)
  deriving DecidableEq, Repr

/-- The events of R7. `construct` takes the glyph table, an OPEN parameter of R4, beside the program. -/
inductive Event where
  | construct (glyphs : Vector Byte 80) (rom : List Byte)
  | step
  | tick
  | setKey (index : Fin 16) (pressed : Bool)
  | clearDirty
  | snapshot
  | isDirty
  deriving DecidableEq, Repr

/-- What an event returns to the host. -/
inductive Reply where
  | ok
  /-- A fatal error kind (R200). -/
  | error (f : Fault)
  /-- The model gave the instruction no meaning. -/
  | refused (r : Refusal)
  /-- `snapshot()` (R218). -/
  | grid (fb : Framebuffer)
  /-- `is_dirty()` (R218). -/
  | flag (dirty : Bool)
  deriving DecidableEq, Repr

/-- The state after an event, its reply and the pulses it emitted, in order. -/
structure Delivery where
  state : State
  reply : Reply
  outputs : List Output
  deriving DecidableEq, Repr

/-! ## The numeric codes of R200, in the source's order (the spec's decision D13, log 22) -/

/-- Code 0 means no error, `ok`. -/
def okCode : Nat := 0

/-- The codes of the fatal kinds. -/
def Fault.code : Fault → Nat
  | .romTooLarge _ => 1
  | .addressOutOfRange _ => 2
  | .stackOverflow _ => 3
  | .stackUnderflow _ => 4

/-- The code of the non-fatal kind `UnknownOpcode` (R204). -/
def unknownOpcodeCode : Nat := 5

/-- The code a `construct` or a `step` returns to the host: 0 or that of its error (R86, R206). The two reads answer no
code. -/
def Reply.code : Reply → Option Nat
  | .ok => some okCode
  | .error f => some f.code
  | .refused _ => none
  | .grid _ => none
  | .flag _ => none

/-- The code a pulse carries: that of `UnknownOpcode`. A beep carries no data (R214). -/
def Output.code : Output → Option Nat
  | .beep => none
  | .unknownOpcode _ _ => some unknownOpcodeCode

/-- `construct(rom)` (R240, R241): the whole state at its reset value, the glyph table at 0x000, the program at 0x200, or
`RomTooLarge`. `draws` is the model's own counter of the outside source of random bytes, which goes on (log 3). -/
def construct (glyphs : Vector Byte 80) (rom : List Byte) (draws : Nat) : Result :=
  if rom.length ≤ Config.romMax then
    .next { State.reset with
      mem := Memory.writeBytes (Memory.writeBytes [] 0 glyphs.toList) Config.progBase rom
      draws := draws }
  else raise (.romTooLarge rom.length)

/-- One count of a timer: a counter at 0 stays at 0 (R213). -/
def countDown (b : Byte) : Byte := if b = 0 then 0 else b - 1

/-- The state after `tick()` (R213): both timers, nothing else. -/
def tick (s : State) : State := { s with dt := countDown s.dt, st := countDown s.st }

/-- The pulses of `tick()`: one beep when the sound timer goes from 1 to 0 (R213, R214). -/
def tickOutputs (s : State) : List Output := if s.st = 1 then [.beep] else []

/-- `set_key(index, pressed)` (R217). -/
def setKey (s : State) (index : Fin 16) (pressed : Bool) : State := { s with key := s.key.set index pressed }

/-- `clear_dirty()` (R218). -/
def clearDirty (s : State) : State := { s with dirty := false }

/-- `snapshot()` (R218). -/
def snapshot (s : State) : Framebuffer := s.fb

/-- The snapshot as a flat sequence of bits: bit `64*y + x` is `FB[y][x]` (R218, the spec's decision D17, log 21). -/
def snapshotBit (s : State) (n : Fin 2048) : Bool :=
  s.fb.pixel ⟨n.val / 64, by omega⟩ ⟨n.val % 64, by omega⟩

/-- `is_dirty()` (R218). -/
def isDirty (s : State) : Bool := s.dirty

/-- The pulses of executing an instruction fetched from `pc`: the fallback reports its word and address (R85, R204), no
other instruction emits anything (R87). -/
def instrOutputs (i : Instr) (pc : Word) : List Output :=
  match i with
  | .unknown w => [.unknownOpcode w pc]
  | _ => []

/-- The pulses of a `step` from `s`: those of the instruction it executes. A poll and a failing fetch emit nothing (R86,
R88). -/
def stepOutputs (s : State) : List Output :=
  match s.mode, fetch s with
  | .running, .ok w => instrOutputs (decode w) s.pc
  | .running, .error _ => []
  | .awaitingKey, _ => []

/-- What the host receives from an event whose outcome is `r`, the machine before it being `s`: after an error or a
refusal the state before stands (R86, R206, R242). -/
def settle (s : State) (r : Result) (outputs : List Output) : Delivery :=
  match r with
  | .next t => ⟨t, .ok, outputs⟩
  | .fault f => ⟨s, .error f, []⟩
  | .refused q => ⟨s, .refused q, []⟩

/-- One event on the machine `s` (R7): atomic, total. -/
def deliver (e : Event) (s : State) : Delivery :=
  match e with
  | .construct glyphs rom => settle s (construct glyphs rom s.draws) []
  | .step => settle s (step s) (stepOutputs s)
  | .tick => ⟨tick s, .ok, tickOutputs s⟩
  | .setKey index pressed => ⟨setKey s index pressed, .ok, []⟩
  | .clearDirty => ⟨clearDirty s, .ok, []⟩
  | .snapshot => ⟨s, .grid (snapshot s), []⟩
  | .isDirty => ⟨s, .flag (isDirty s), []⟩

/-- A sequence of events, each on the state left by the one before (R7): the state at the end and the pulses in order. -/
def deliverAll : List Event → State → State × List Output
  | [], s => (s, [])
  | e :: es, s =>
    let d := deliver e s
    let rest := deliverAll es d.state
    (rest.1, d.outputs ++ rest.2)

/-- `step` and `tick` accepted in the same instant: the step first (R216, the spec's decision D2, log 17). -/
def deliverStepAndTick (s : State) : State × List Output := deliverAll [.step, .tick] s

end Sys2Proof.Machine
end

