-- ==== Sys2Proof/Safety.lean ====
section
/-! DEFINITION. What counts as a safe run: the invariant of reachable states (10_state.md R25), when a machine has
faulted and when a run has ended well (70_reset_and_hazards.md R250, the spec's decision D26, log 26); and what an
instruction may write (10_state.md R11 to R26). -/

namespace Sys2Proof.Machine

/-- The byte of memory at address `a`. -/
def State.byteAt (s : State) (a : Nat) : Byte := s.mem.read a

/-- The cell of the framebuffer in column `x` and row `y`. -/
def State.pixel (s : State) (y : Fin 32) (x : Fin 64) : Bool := s.fb.pixel y x

/-- What holds in every reachable state (R25): the memory list is canonical; every valid stack entry is at most 4096;
`PC` is at most 4350; and while a key is awaited `PC` still addresses the FX0A word whose `X` is `WAITREG`. That `SP` is
at most 16 is its type. -/
def State.inv (s : State) : Prop :=
  s.mem.wf = true ∧
  (∀ k : Fin 16, k.val < s.sp.val → s.stack[k].toNat ≤ 4096) ∧
  s.pc.toNat ≤ 4350 ∧
  (s.mode = .awaitingKey → s.pc.toNat ≤ Config.fetchMax ∧ fetchWord s = encode (.waitKey s.waitReg))

/-- The run has faulted: a step would return a fatal error (R250). -/
def State.faulted (s : State) : Prop := ∃ f, step s = .fault f

/-- The run has ended well: the machine is running and the word at `PC` is a jump to itself (R250). -/
def State.endedWell (s : State) : Prop :=
  s.mode = .running ∧ s.pc.toNat ≤ Config.fetchMax ∧ ∃ nnn : Addr, fetchWord s = encode (.jump nnn) ∧ s.pc = nnn.setWidth 16

/-- A 1 bit of the `n`-row sprite at `I` lands on the cell in column `x` and row `y`, drawn at `(V[vx], V[vy])`: column `c`
of sprite row `r` is bit `7 - c` of the byte at `I + r`, and each coordinate wraps on its own (R161, R163). -/
def State.spriteLands (s : State) (vx vy : Reg) (n : Nibble) (y : Fin 32) (x : Fin 64) : Prop :=
  ∃ r < n.toNat, ∃ c < 8,
    (s.byteAt (s.i.toNat + r)).getLsbD (7 - c) = true ∧
    y.val = ((s.reg vy).toNat + r) % 32 ∧
    x.val = ((s.reg vx).toNat + c) % 64

/-- A piece of state, each data register, memory byte, stack slot, key and cell on its own. -/
inductive Piece where
  | v (r : Reg)
  | i
  | pc
  | stack (k : Fin 16)
  | sp
  | dt
  | st
  | key (k : Fin 16)
  | fb (y : Fin 32) (x : Fin 64)
  | dirty
  | mode
  | waitReg
  | mem (a : Nat)
  | draws
  deriving DecidableEq, Repr

/-- The piece `p` is the same in `s` and in `t`. -/
def Piece.same (p : Piece) (s t : State) : Prop :=
  match p with
  | .v r => t.reg r = s.reg r
  | .i => t.i = s.i
  | .pc => t.pc = s.pc
  | .stack k => t.stack[k] = s.stack[k]
  | .sp => t.sp = s.sp
  | .dt => t.dt = s.dt
  | .st => t.st = s.st
  | .key k => t.key[k] = s.key[k]
  | .fb y x => t.pixel y x = s.pixel y x
  | .dirty => t.dirty = s.dirty
  | .mode => t.mode = s.mode
  | .waitReg => t.waitReg = s.waitReg
  | .mem a => t.byteAt a = s.byteAt a
  | .draws => t.draws = s.draws

/-- From `s` to `t` nothing changed outside the pieces that `may` admits. -/
def ChangesOnly (may : Piece → Prop) (s t : State) : Prop := ∀ p : Piece, ¬ may p → p.same s t

end Sys2Proof.Machine
end

