-- ==== Sys2Proof/Certificates/Slice0/Obligations.lean ====
section
/-! DEFINITION. The statements for the provers. `ChangesOnly may s t` is the frame: no register, memory byte, stack slot,
key, framebuffer cell or other piece of state outside `may` differs between `s` and `t`. A decision D<n> of
spec/92_eei_decisions.md that a clause rests on is named in the docstring with its log entry. -/

open Sys2Proof Sys2Proof.Machine

/-! ## Encoding -/

/-- One word of each of the 34 rows of R64, so of every family, written out from the row's pattern, decodes to the instruction
it stands for. Two words that select no row decode to the fallback: that 5121 is one of them is the spec's decision D14 (log
15). -/
def Obligations.DecodedWordsOfTheSpec : Prop :=
  (decode 0x00E0 = .clear ∧ decode 0x00EE = .ret ∧ decode 0x1ABC = .jump 0xABC ∧ decode 0x2DEF = .call 0xDEF ∧
    decode 0x332A = .skipEqLit 3 0x2A ∧ decode 0x4B71 = .skipNeLit 0xB 0x71 ∧ decode 0x5120 = .skipEqReg 1 2 ∧
    decode 0x6AFE = .setLit 0xA 0xFE ∧ decode 0x7F03 = .addLit 0xF 3) ∧
  (decode 0x8120 = .assign 1 2 ∧ decode 0x8341 = .orReg 3 4 ∧ decode 0x8562 = .andReg 5 6 ∧ decode 0x8783 = .xorReg 7 8 ∧
    decode 0x89A4 = .addReg 9 0xA ∧ decode 0x8BC5 = .subReg 0xB 0xC ∧ decode 0x8DE6 = .shiftRight 0xD 0xE ∧
    decode 0x8127 = .subRev 1 2 ∧ decode 0x8F0E = .shiftLeft 0xF 0) ∧
  (decode 0x9210 = .skipNeReg 2 1 ∧ decode 0xA300 = .setIndex 0x300 ∧ decode 0xBFED = .jumpOffset 0xFED ∧
    decode 0xC30F = .random 3 0x0F ∧ decode 0xD5A3 = .draw 5 0xA 3 ∧ decode 0xE29E = .skipKey 2 ∧
    decode 0xEDA1 = .skipNokey 0xD) ∧
  (decode 0xF407 = .getDelay 4 ∧ decode 0xF30A = .waitKey 3 ∧ decode 0xF515 = .setDelay 5 ∧ decode 0xF618 = .setSound 6 ∧
    decode 0xF71E = .addIndex 7 ∧ decode 0xF829 = .glyphAddr 8 ∧ decode 0xF933 = .bcd 9 ∧ decode 0xFE55 = .regDump 0xE ∧
    decode 0xF265 = .regLoad 2) ∧
  decode 0x0123 = .unknown 0x0123 ∧ decode 0x5121 = .unknown 0x5121

/-- Decoding the word of a well-formed instruction gives the instruction back, every operand at every value. -/
def Obligations.DecodeOfEncodeIsIdentity : Prop :=
  ∀ i : Instr, i.wf = true → decode (encode i) = i

/-- Every word decodes to a well-formed instruction whose word it is: no bit is dropped. That no literal digit is ignored (R65)
is the spec's decision D14 (log 15). -/
def Obligations.EncodeOfDecodeIsIdentity : Prop :=
  ∀ w : Word, (decode w).wf = true ∧ encode (decode w) = w

/-- Decoding agrees with the opcode table (R64, R65, R66, R82): a word selects a row exactly when it decodes to an
instance of it, no word selects two rows, and a word that selects none is the fallback's. The exact matching of the
literal digits is the spec's decision D14 (log 15). -/
def Obligations.DecodeSelectsTheMatchingRow : Prop :=
  ∀ w : Word,
    (∀ r ∈ opcodeRows, r.selects w = true ↔ (decode w).row = some r) ∧
    (∀ r ∈ opcodeRows, ∀ r' ∈ opcodeRows, r.selects w = true → r'.selects w = true → r = r') ∧
    ((∀ r ∈ opcodeRows, r.selects w = false) ↔ decode w = .unknown w)

/-! ## The step -/

/-- A running step runs exactly the instruction that the two bytes at PC decode to, with its outputs (R80, R81, R82). -/
def Obligations.StepRunsTheDecodedInstruction : Prop :=
  ∀ (i : Instr) (s : State), s.mode = .running → s.pc.toNat ≤ 4094 →
    (decodeBytes [s.byteAt s.pc.toNat, s.byteAt (s.pc.toNat + 1)] = .ok (i, []) →
      step s = exec i s ∧ stepOutputs s = instrOutputs i s.pc) ∧
    (i.wf = true → [s.byteAt s.pc.toNat, s.byteAt (s.pc.toNat + 1)] = encodeBytes i → step s = exec i s)

/-- R81: the fetch reads the two bytes at PC and PC + 1, high byte first, with no alignment requirement, when PC is at most
4094; above, it raises `AddressOutOfRange`, and the step leaves the state as it was, so every later step does the same. -/
def Obligations.FetchIsBoundedAndBigEndian : Prop :=
  ∀ s : State,
    (s.pc.toNat ≤ 4094 → ∃ w, fetch s = .ok w ∧
      w.toNat = 256 * (s.byteAt s.pc.toNat).toNat + (s.byteAt (s.pc.toNat + 1)).toNat) ∧
    (4094 < s.pc.toNat → fetch s = .error (.addressOutOfRange (.fetch s.pc)) ∧
      (s.mode = .running → step s = .fault (.addressOutOfRange (.fetch s.pc)) ∧
        deliver .step s = ⟨s, .error (.addressOutOfRange (.fetch s.pc)), []⟩))

/-- PC after a successful step of the running machine, by the class of the instruction it ran (R83). Three clauses rest on
choices: RETURN's popped slot on the spec's decision D20 (log 20), JUMP-OFFSET's unreduced sum on the spec's inference (log 25),
and that SKIP-KEY and SKIP-NOKEY succeed only on a key index of at most 15 on the spec's decision D7 (log 10). -/
def Obligations.PcPolicyOfEveryInstruction : Prop :=
  ∀ s t : State, s.mode = .running → s.pc.toNat ≤ 4094 → step s = .next t →
    match decode (fetchWord s) with
    | .jump nnn => t.pc.toNat = nnn.toNat
    | .call nnn => t.pc.toNat = nnn.toNat
    | .ret => t.pc = s.stack[s.sp.val - 1]
    | .jumpOffset nnn => t.pc.toNat = nnn.toNat + (s.reg 0).toNat
    | .skipEqLit x nn => t.pc = if s.reg x = nn then s.pc + 4 else s.pc + 2
    | .skipNeLit x nn => t.pc = if s.reg x ≠ nn then s.pc + 4 else s.pc + 2
    | .skipEqReg x y => t.pc = if s.reg x = s.reg y then s.pc + 4 else s.pc + 2
    | .skipNeReg x y => t.pc = if s.reg x ≠ s.reg y then s.pc + 4 else s.pc + 2
    | .skipKey x => ∃ h : (s.reg x).toNat < 16, t.pc = if s.key[(s.reg x).toNat] = true then s.pc + 4 else s.pc + 2
    | .skipNokey x => ∃ h : (s.reg x).toNat < 16, t.pc = if s.key[(s.reg x).toNat] = false then s.pc + 4 else s.pc + 2
    | .waitKey _ => t.pc = s.pc
    | .clear | .setLit _ _ | .addLit _ _ | .assign _ _ | .orReg _ _ | .andReg _ _ | .xorReg _ _ | .addReg _ _ | .subReg _ _
    | .shiftRight _ _ | .subRev _ _ | .shiftLeft _ _ | .setIndex _ | .random _ _ | .draw _ _ _ | .getDelay _
    | .setDelay _ | .setSound _ | .addIndex _ | .glyphAddr _ | .bcd _ | .regDump _ | .regLoad _ | .unknown _ =>
      t.pc = s.pc + 2

/-- R86: a step returns ok or one of three error kinds, never anything else; with an error the whole state stays as it
was and no pulse is emitted; with ok the state is the step's. -/
def Obligations.StepReturnsOkOrAnErrorThatChangesNothing : Prop :=
  ∀ s : State,
    ((∃ t, step s = .next t) ∨ (∃ c, step s = .fault (.addressOutOfRange c)) ∨ (∃ a, step s = .fault (.stackOverflow a)) ∨
      (∃ a, step s = .fault (.stackUnderflow a))) ∧
    (∀ t, step s = .next t → deliver .step s = ⟨t, .ok, stepOutputs s⟩) ∧
    (∀ f, step s = .fault f → deliver .step s = ⟨s, .error f, []⟩)

/-- When a step fails, and with what (R201, R202, R203, R207). The data-range and key-index errors are the spec's decisions
D6 and D7 (log 9, log 10). -/
def Obligations.StepFaultsExactlyWhenTheSpecSays : Prop :=
  ∀ (s : State) (f : Fault), step s = .fault f ↔ s.mode = .running ∧
    ((4094 < s.pc.toNat ∧ f = .addressOutOfRange (.fetch s.pc)) ∨
     (s.pc.toNat ≤ 4094 ∧
       ((decode (fetchWord s) = .ret ∧ s.sp.val = 0 ∧ f = .stackUnderflow s.pc) ∨
        (∃ nnn, decode (fetchWord s) = .call nnn ∧ s.sp.val = 16 ∧ f = .stackOverflow s.pc) ∨
        (∃ x, (decode (fetchWord s) = .skipKey x ∨ decode (fetchWord s) = .skipNokey x) ∧ 15 < (s.reg x).toNat ∧
          f = .addressOutOfRange (.key (s.reg x))) ∨
        (∃ x y n, decode (fetchWord s) = .draw x y n ∧ n ≠ 0 ∧ 0xFFF < s.i.toNat + n.toNat - 1 ∧
          f = .addressOutOfRange (.data s.i)) ∨
        (∃ x, decode (fetchWord s) = .bcd x ∧ 0xFFF < s.i.toNat + 2 ∧ f = .addressOutOfRange (.data s.i)) ∨
        (∃ x : Reg, (decode (fetchWord s) = .regDump x ∨ decode (fetchWord s) = .regLoad x) ∧ 0xFFF < s.i.toNat + x.val ∧
          f = .addressOutOfRange (.data s.i)))))

/-- A step while a key is awaited (R88, R183): with no key pressed nothing changes; otherwise the lowest pressed index goes
to the recorded register, PC advances by 2 and the machine runs again. That the lowest index is stored is the spec's
decision D8 (log 11). -/
def Obligations.StepPollsWhileAwaitingKey : Prop :=
  ∀ s : State, s.mode = .awaitingKey →
    ((∀ k : Fin 16, s.key[k] = false) → step s = .next s) ∧
    (∀ k : Fin 16, s.key[k] = true → (∀ j : Fin 16, j < k → s.key[j] = false) →
      ∃ t, step s = .next t ∧ (t.reg s.waitReg).toNat = k.val ∧ t.pc = s.pc + 2 ∧ t.mode = .running ∧
        ChangesOnly (fun p => p = .v s.waitReg ∨ p = .pc ∨ p = .mode) s t)

/-- The wait for a key begins only by executing FX0A, and ends only by a poll that sees a pressed key or by construction (R21,
R182, R183, R222). -/
def Obligations.AwaitKeyModeBeginsByWaitKeyAndEndsByPollOrConstruct : Prop :=
  ∀ (e : Event) (s : State), (deliver e s).state.mode ≠ s.mode →
    (s.mode = .awaitingKey ∧ ∃ glyphs rom, e = .construct glyphs rom) ∨
    (s.mode = .awaitingKey ∧ e = .step ∧ ∃ k : Fin 16, s.key[k] = true) ∨
    (s.mode = .running ∧ e = .step ∧ ∃ x, decode (fetchWord s) = .waitKey x)

/-- The codes a step and a construction return to the host (R200): 0 exactly when it succeeded, otherwise that of its error,
and 5 on every pulse a step emits. The numbers are the spec's decision D13 (log 22). That no step beeps, SET-SOUND's included,
rests on its decisions D1 (log 17) and D15 (log 18). -/
def Obligations.ResultsCarryTheirCodes : Prop :=
  ∀ s : State,
    (∃ c, (deliver .step s).reply.code = some c ∧ (c = 0 ∨ c = 2 ∨ c = 3 ∨ c = 4)) ∧
    ((deliver .step s).reply.code = some 0 ↔ ∃ t, step s = .next t) ∧
    ((deliver .step s).reply.code = some 2 ↔ ∃ c, step s = .fault (.addressOutOfRange c)) ∧
    ((deliver .step s).reply.code = some 3 ↔ ∃ a, step s = .fault (.stackOverflow a)) ∧
    ((deliver .step s).reply.code = some 4 ↔ ∃ a, step s = .fault (.stackUnderflow a)) ∧
    (∀ p ∈ (deliver .step s).outputs, p.code = some 5) ∧
    (∀ glyphs rom, (deliver (.construct glyphs rom) s).reply.code = some (if rom.length ≤ 3584 then 0 else 1))

/-! ## Construction, the invariant, memory -/

/-- Every piece of state after a successful construction, for every glyph table and every program of at most 3584 bytes.
Delivered to any machine, the event leaves that state, replies ok and emits no pulse (R240, R241). DIRTY, MODE and WAITREG are
the spec's decisions D18 and D22 (log 19), the draw count the model's own field (log 3). -/
def Obligations.ConstructSetsEveryPieceOfState : Prop :=
  ∀ (glyphs : Vector Byte 80) (rom : List Byte) (draws : Nat), rom.length ≤ 3584 →
    ∃ t, construct glyphs rom draws = .next t ∧
      (∀ s : State, s.draws = draws → deliver (.construct glyphs rom) s = ⟨t, .ok, []⟩) ∧
      (∀ k : Fin 80, t.byteAt k.val = glyphs[k]) ∧
      (∀ a, 80 ≤ a → a < 0x200 → t.byteAt a = 0) ∧
      (∀ k : Fin rom.length, t.byteAt (0x200 + k.val) = rom[k]) ∧
      (∀ a, 0x200 + rom.length ≤ a → a < 4096 → t.byteAt a = 0) ∧
      (∀ r, t.reg r = 0) ∧ t.i = 0 ∧ t.pc = 0x200 ∧ (∀ k : Fin 16, t.stack[k] = 0) ∧ t.sp = 0 ∧ t.dt = 0 ∧ t.st = 0 ∧
      (∀ k : Fin 16, t.key[k] = false) ∧ (∀ y x, t.pixel y x = false) ∧ t.dirty = false ∧ t.mode = .running ∧
      t.waitReg = 0

/-- A program of more than 3584 bytes gives `RomTooLarge` and no machine (R205, R242). That an existing machine is untouched
is the spec's decision D27 (log 23). -/
def Obligations.ConstructRejectsTooLongPrograms : Prop :=
  ∀ (glyphs : Vector Byte 80) (rom : List Byte), 3584 < rom.length →
    (∀ draws, construct glyphs rom draws = .fault (.romTooLarge rom.length)) ∧
    (∀ s, deliver (.construct glyphs rom) s = ⟨s, .error (.romTooLarge rom.length), []⟩)

/-- The model's reset state is the construction of the empty program with the default glyph table (PRESUMED, log 1) and
starts at 0x200. -/
def Obligations.ResetIsTheEmptyConstruction : Prop :=
  construct defaultGlyphTable [] 0 = .next State.reset ∧ State.reset.pc.toNat = 0x200 ∧ State.reset.mem.wf = true

/-- The invariant of reachable states (R25) holds at reset. -/
def Obligations.InvariantHoldsAtReset : Prop := State.reset.inv

/-- The invariant of reachable states (R25) is kept by every successful step, from every state that meets it. -/
def Obligations.StepKeepsTheInvariant : Prop :=
  ∀ s t : State, s.inv → step s = .next t → t.inv

/-- The invariant of reachable states (R25) is kept by every event of the host, construction and failing steps
included. -/
def Obligations.EveryEventKeepsTheInvariant : Prop :=
  ∀ (e : Event) (s : State), s.inv → (deliver e s).state.inv

/-- The memory access primitives (R41), over canonical memory: a write in range lands byte by byte, leaves every other byte
and everything else alone, keeps the canonical form and reads back; out of range both raise before anything moves. The error is
the spec's decision D6 (log 9); that a write lands wherever it is in range is its decision D11 (log 14). -/
def Obligations.MemWriteThenMemRead : Prop :=
  ∀ (s : State) (addr : Word) (bytes : List Byte), s.mem.wf = true →
    (bytes = [] ∨ addr.toNat + bytes.length - 1 ≤ 0xFFF →
      ∃ t, memWrite s addr bytes = .ok t ∧ t.mem.wf = true ∧
        (∀ k : Fin bytes.length, t.byteAt (addr.toNat + k.val) = bytes[k]) ∧
        memRead t addr bytes.length = .ok bytes ∧
        ChangesOnly (fun p => ∃ a, p = .mem a ∧ addr.toNat ≤ a ∧ a < addr.toNat + bytes.length) s t) ∧
    (bytes ≠ [] → 0xFFF < addr.toNat + bytes.length - 1 →
      memWrite s addr bytes = .error (.addressOutOfRange (.data addr)) ∧
      memRead s addr bytes.length = .error (.addressOutOfRange (.data addr)))

/-- The canonical form is canonical: two memories in it that read alike at every address are the same data. The list is the
model's own representation of `MEM` (R22, R40). -/
def Obligations.CanonicalMemoriesThatReadAlikeAreEqual : Prop :=
  ∀ m m' : Memory, m.wf = true → m'.wf = true → (∀ a, m.read a = m'.read a) → m = m'

/-- After construction the host has no access to memory: memory changes only by FX33 and FX55 executing, only within the bytes
they store to, and no host event other than `step` answers anything that depends on it (R56, R143, R144). That the bytes run
from I upwards and never wrap rests on the range error, the spec's decision D6 (log 9). -/
def Obligations.MemoryChangesOnlyByBcdAndRegDump : Prop :=
  ∀ (e : Event) (s : State), s.mem.wf = true → (∀ glyphs rom, e ≠ .construct glyphs rom) →
    (∀ a, (deliver e s).state.byteAt a ≠ s.byteAt a →
      e = .step ∧ s.mode = .running ∧ s.pc.toNat ≤ 4094 ∧
      ((∃ x, decode (fetchWord s) = .bcd x ∧ s.i.toNat ≤ a ∧ a ≤ s.i.toNat + 2) ∨
       (∃ x : Reg, decode (fetchWord s) = .regDump x ∧ s.i.toNat ≤ a ∧ a ≤ s.i.toNat + x.val))) ∧
    (e ≠ .step → ∀ m : Memory, (deliver e { s with mem := m }).reply = (deliver e s).reply ∧
      (deliver e { s with mem := m }).outputs = (deliver e s).outputs)

/-! ## Rules of the whole machine -/

/-- Who may touch what (R26): a step writes no key and clears no dirty flag; each host event writes its own piece only; the
two reads write nothing and answer what they read. -/
def Obligations.EveryEventWritesOnlyItsOwnState : Prop :=
  ∀ s : State,
    (∀ t, step s = .next t → (∀ k : Fin 16, t.key[k] = s.key[k]) ∧ (s.dirty = true → t.dirty = true)) ∧
    ChangesOnly (fun p => p = .dt ∨ p = .st) s (deliver .tick s).state ∧
    (∀ k b, ChangesOnly (fun p => p = .key k) s (deliver (.setKey k b) s).state) ∧
    ChangesOnly (fun p => p = .dirty) s (deliver .clearDirty s).state ∧
    deliver .snapshot s = ⟨s, .grid s.fb, []⟩ ∧
    deliver .isDirty s = ⟨s, .flag s.dirty, []⟩

/-- A step changes DT only by FX15 and ST only by FX18 (R16, R17, R87). That a step does not count the timers is the spec's
decision D1 (log 17). -/
def Obligations.StepChangesTimersOnlyBySetDelayAndSetSound : Prop :=
  ∀ s t : State, step s = .next t →
    (t.dt ≠ s.dt → s.mode = .running ∧ ∃ x, decode (fetchWord s) = .setDelay x ∧ t.dt = s.reg x) ∧
    (t.st ≠ s.st → s.mode = .running ∧ ∃ x, decode (fetchWord s) = .setSound x ∧ t.st = s.reg x)

/-- VF as the flag register (R12, R134): the six flag writers leave 0 or 1 in it; every other instruction leaves it alone
unless its own destination is VF. That DRAW writes it always, and that the flag wins when X = F, are the spec's decisions D5
and D4 (log 8, log 7). -/
def Obligations.FlagRegisterIsWrittenOnlyByFlagWriters : Prop :=
  ∀ (i : Instr) (s t : State), exec i s = .next t →
    match i with
    | .addReg _ _ | .subReg _ _ | .shiftRight _ _ | .subRev _ _ | .shiftLeft _ _ | .draw _ _ _ =>
      t.reg 15 = 0 ∨ t.reg 15 = 1
    | .setLit x _ | .addLit x _ | .assign x _ | .orReg x _ | .andReg x _ | .xorReg x _ | .random x _ | .getDelay x
    | .regLoad x => x ≠ 15 → t.reg 15 = s.reg 15
    | .clear | .ret | .jump _ | .call _ | .skipEqLit _ _ | .skipNeLit _ _ | .skipEqReg _ _ | .skipNeReg _ _ | .setIndex _
    | .jumpOffset _ | .skipKey _ | .skipNokey _ | .waitKey _ | .setDelay _ | .setSound _ | .addIndex _ | .glyphAddr _
    | .bcd _ | .regDump _ | .unknown _ => t.reg 15 = s.reg 15

/-- No program observes the sound timer or the dirty flag (R17, R20): two machines that differ in them alone step alike, to
states that again differ in them alone, and fail alike. -/
def Obligations.SoundTimerAndDirtyFlagAreUnobservable : Prop :=
  ∀ (s : State) (b : Byte) (d : Bool),
    match step s, step { s with st := b, dirty := d } with
    | .next t, .next u => u = { t with st := u.st, dirty := u.dirty }
    | .fault f, .fault g => f = g
    | _, _ => False

/-- A machine whose run has ended well, at a jump to itself, stays exactly as it is under every further step (R101, R250).
What counts as ended is the spec's decision D26 (log 26). -/
def Obligations.SelfJumpIsAFixedPointOfStep : Prop :=
  ∀ s : State, s.endedWell → step s = .next s ∧ ¬s.faulted

/-! ## Control transfer -/

/-- R101: JUMP sets PC and nothing else, so a jump to itself changes nothing at all. -/
def Obligations.JumpSetsPcAlone : Prop :=
  ∀ (nnn : Addr) (s : State),
    decode (BitVec.ofNat 16 (0x1000 + nnn.toNat)) = .jump nnn ∧
    ∃ t, exec (.jump nnn) s = .next t ∧ t.pc.toNat = nnn.toNat ∧ ChangesOnly (fun p => p = .pc) s t ∧
      (s.pc.toNat = nnn.toNat → t = s)

/-- CALL (R102): with a free slot it pushes the address after itself and jumps; with all 16 in use it raises
`StackOverflow`. The slot layout is the spec's decision D20 (log 20). -/
def Obligations.CallPushesTheReturnAddress : Prop :=
  ∀ (nnn : Addr) (s : State),
    decode (BitVec.ofNat 16 (0x2000 + nnn.toNat)) = .call nnn ∧
    (∀ h : s.sp.val < 16, ∃ t, exec (.call nnn) s = .next t ∧ t.stack[s.sp.val] = s.pc + 2 ∧ t.sp.val = s.sp.val + 1 ∧
      t.pc.toNat = nnn.toNat ∧
      ChangesOnly (fun p => p = .stack ⟨s.sp.val, h⟩ ∨ p = .sp ∨ p = .pc) s t) ∧
    (s.sp.val = 16 → exec (.call nnn) s = .fault (.stackOverflow s.pc))

/-- RETURN (R100): it pops into PC, leaving the vacated slot; with an empty stack it raises `StackUnderflow`. The slot
layout is the spec's decision D20 (log 20). -/
def Obligations.ReturnPopsIntoPc : Prop :=
  ∀ s : State,
    decode 0x00EE = .ret ∧
    (0 < s.sp.val → ∃ t, exec .ret s = .next t ∧ t.pc = s.stack[s.sp.val - 1] ∧ t.sp.val = s.sp.val - 1 ∧
      ChangesOnly (fun p => p = .sp ∨ p = .pc) s t) ∧
    (s.sp.val = 0 → exec .ret s = .fault (.stackUnderflow s.pc))

/-- The call and return law (R109): a RETURN executed at the depth a CALL left, its slot not written in between, goes to the
word after the CALL and restores the depth, whatever else happened in between. -/
def Obligations.ReturnAfterCallGoesToTheNextInstruction : Prop :=
  ∀ (nnn : Addr) (s : State), s.sp.val < 16 →
    ∃ t, exec (.call nnn) s = .next t ∧
      ∀ u : State, u.sp = t.sp → u.stack[s.sp.val]? = t.stack[s.sp.val]? →
        ∃ r, exec .ret u = .next r ∧ r.pc = s.pc + 2 ∧ r.sp = s.sp

/-- JUMP-OFFSET (R103): the full sum of NNN and V0, whatever the X nibble of the word; that it is not reduced to 12 bits is
the spec's inference (log 25). -/
def Obligations.JumpOffsetAddsVZero : Prop :=
  ∀ (nnn : Addr) (s : State),
    decode (BitVec.ofNat 16 (0xB000 + nnn.toNat)) = .jumpOffset nnn ∧
    ∃ t, exec (.jumpOffset nnn) s = .next t ∧ t.pc.toNat = nnn.toNat + (s.reg 0).toNat ∧
      ChangesOnly (fun p => p = .pc) s t

/-- R104 and R105: compare with a literal and skip. -/
def Obligations.CompareWithLiteralAndSkip : Prop :=
  ∀ (x : Reg) (nn : Byte) (s : State),
    decode (BitVec.ofNat 16 (0x3000 + 0x100 * x.val + nn.toNat)) = .skipEqLit x nn ∧
    decode (BitVec.ofNat 16 (0x4000 + 0x100 * x.val + nn.toNat)) = .skipNeLit x nn ∧
    (∃ t, exec (.skipEqLit x nn) s = .next t ∧ t.pc = (if s.reg x = nn then s.pc + 4 else s.pc + 2) ∧
      ChangesOnly (fun p => p = .pc) s t) ∧
    (∃ t, exec (.skipNeLit x nn) s = .next t ∧ t.pc = (if s.reg x = nn then s.pc + 2 else s.pc + 4) ∧
      ChangesOnly (fun p => p = .pc) s t)

/-- Compare two registers and skip (R106, R107). That a family-5 or family-9 word whose low nibble is not 0 is an unknown opcode
is the spec's decision D14 (log 15). -/
def Obligations.CompareRegistersAndSkip : Prop :=
  ∀ (x y : Reg) (s : State),
    decode (BitVec.ofNat 16 (0x5000 + 0x100 * x.val + 0x10 * y.val)) = .skipEqReg x y ∧
    decode (BitVec.ofNat 16 (0x9000 + 0x100 * x.val + 0x10 * y.val)) = .skipNeReg x y ∧
    (∀ w : Word, w.toNat / 0x1000 = 5 ∨ w.toNat / 0x1000 = 9 → w.toNat % 16 ≠ 0 → decode w = .unknown w) ∧
    (∃ t, exec (.skipEqReg x y) s = .next t ∧ t.pc = (if s.reg x = s.reg y then s.pc + 4 else s.pc + 2) ∧
      ChangesOnly (fun p => p = .pc) s t) ∧
    (∃ t, exec (.skipNeReg x y) s = .next t ∧ t.pc = (if s.reg x = s.reg y then s.pc + 2 else s.pc + 4) ∧
      ChangesOnly (fun p => p = .pc) s t)

/-! ## Load, arithmetic, logic, shift, random -/

/-- R120 and R121: load a literal, add a literal modulo 256 with no flag. -/
def Obligations.SetAndAddLiteral : Prop :=
  ∀ (x : Reg) (nn : Byte) (s : State),
    decode (BitVec.ofNat 16 (0x6000 + 0x100 * x.val + nn.toNat)) = .setLit x nn ∧
    decode (BitVec.ofNat 16 (0x7000 + 0x100 * x.val + nn.toNat)) = .addLit x nn ∧
    (∃ t, exec (.setLit x nn) s = .next t ∧ t.reg x = nn ∧ t.pc = s.pc + 2 ∧
      ChangesOnly (fun p => p = .v x ∨ p = .pc) s t) ∧
    (∃ t, exec (.addLit x nn) s = .next t ∧ (t.reg x).toNat = ((s.reg x).toNat + nn.toNat) % 256 ∧ t.pc = s.pc + 2 ∧
      ChangesOnly (fun p => p = .v x ∨ p = .pc) s t)

/-- R122, R123, R124 and R125: copy, or, and, exclusive or, bit by bit, with no flag. -/
def Obligations.CopyAndBitwiseLogic : Prop :=
  ∀ (x y : Reg) (s : State),
    decode (BitVec.ofNat 16 (0x8000 + 0x100 * x.val + 0x10 * y.val)) = .assign x y ∧
    decode (BitVec.ofNat 16 (0x8001 + 0x100 * x.val + 0x10 * y.val)) = .orReg x y ∧
    decode (BitVec.ofNat 16 (0x8002 + 0x100 * x.val + 0x10 * y.val)) = .andReg x y ∧
    decode (BitVec.ofNat 16 (0x8003 + 0x100 * x.val + 0x10 * y.val)) = .xorReg x y ∧
    (∃ t, exec (.assign x y) s = .next t ∧ t.reg x = s.reg y ∧ t.pc = s.pc + 2 ∧
      ChangesOnly (fun p => p = .v x ∨ p = .pc) s t) ∧
    (∃ t, exec (.orReg x y) s = .next t ∧
      (∀ k < 8, (t.reg x).getLsbD k = ((s.reg x).getLsbD k || (s.reg y).getLsbD k)) ∧ t.pc = s.pc + 2 ∧
      ChangesOnly (fun p => p = .v x ∨ p = .pc) s t) ∧
    (∃ t, exec (.andReg x y) s = .next t ∧
      (∀ k < 8, (t.reg x).getLsbD k = ((s.reg x).getLsbD k && (s.reg y).getLsbD k)) ∧ t.pc = s.pc + 2 ∧
      ChangesOnly (fun p => p = .v x ∨ p = .pc) s t) ∧
    (∃ t, exec (.xorReg x y) s = .next t ∧
      (∀ k < 8, (t.reg x).getLsbD k = ((s.reg x).getLsbD k ^^ (s.reg y).getLsbD k)) ∧ t.pc = s.pc + 2 ∧
      ChangesOnly (fun p => p = .v x ∨ p = .pc) s t)

/-- ADD-REG (R126, R132): VF is 1 exactly when the integer sum exceeds 255, and V[X] is the sum modulo 256 unless X = F, when
the flag is what stays: the spec's decision D4 (log 7). -/
def Obligations.AddRegSumAndCarry : Prop :=
  ∀ (x y : Reg) (s : State),
    decode (BitVec.ofNat 16 (0x8004 + 0x100 * x.val + 0x10 * y.val)) = .addReg x y ∧
    ∃ t, exec (.addReg x y) s = .next t ∧
      t.reg 15 = (if 255 < (s.reg x).toNat + (s.reg y).toNat then 1 else 0) ∧
      (x ≠ 15 → (t.reg x).toNat = ((s.reg x).toNat + (s.reg y).toNat) % 256) ∧ t.pc = s.pc + 2 ∧
      ChangesOnly (fun p => p = .v x ∨ p = .v 15 ∨ p = .pc) s t

/-- SUB-REG and SUB-REV (R127, R129, R132): VF is 1 exactly when there is no borrow, and V[X] is the difference modulo 256
unless X = F, when the flag is what stays: the spec's decision D4 (log 7). -/
def Obligations.SubtractDifferenceAndNoBorrow : Prop :=
  ∀ (x y : Reg) (s : State),
    decode (BitVec.ofNat 16 (0x8005 + 0x100 * x.val + 0x10 * y.val)) = .subReg x y ∧
    decode (BitVec.ofNat 16 (0x8007 + 0x100 * x.val + 0x10 * y.val)) = .subRev x y ∧
    (∃ t, exec (.subReg x y) s = .next t ∧
      t.reg 15 = (if (s.reg y).toNat ≤ (s.reg x).toNat then 1 else 0) ∧
      (x ≠ 15 → (t.reg x).toNat = ((s.reg x).toNat + 256 - (s.reg y).toNat) % 256) ∧ t.pc = s.pc + 2 ∧
      ChangesOnly (fun p => p = .v x ∨ p = .v 15 ∨ p = .pc) s t) ∧
    (∃ t, exec (.subRev x y) s = .next t ∧
      t.reg 15 = (if (s.reg x).toNat ≤ (s.reg y).toNat then 1 else 0) ∧
      (x ≠ 15 → (t.reg x).toNat = ((s.reg y).toNat + 256 - (s.reg x).toNat) % 256) ∧ t.pc = s.pc + 2 ∧
      ChangesOnly (fun p => p = .v x ∨ p = .v 15 ∨ p = .pc) s t)

/-- SHIFT-RIGHT and SHIFT-LEFT (R128, R130, R132): V[X] in place whatever Y is, the flag the bit shifted out; with X = F the
flag is what stays: the spec's decision D4 (log 7). -/
def Obligations.ShiftsByOneAndTheBitShiftedOut : Prop :=
  ∀ (x y : Reg) (s : State),
    decode (BitVec.ofNat 16 (0x8006 + 0x100 * x.val + 0x10 * y.val)) = .shiftRight x y ∧
    decode (BitVec.ofNat 16 (0x800E + 0x100 * x.val + 0x10 * y.val)) = .shiftLeft x y ∧
    (∃ t, exec (.shiftRight x y) s = .next t ∧ (t.reg 15).toNat = (s.reg x).toNat % 2 ∧
      (x ≠ 15 → (t.reg x).toNat = (s.reg x).toNat / 2) ∧ t.pc = s.pc + 2 ∧
      ChangesOnly (fun p => p = .v x ∨ p = .v 15 ∨ p = .pc) s t) ∧
    (∃ t, exec (.shiftLeft x y) s = .next t ∧ (t.reg 15).toNat = (s.reg x).toNat / 128 ∧
      (x ≠ 15 → (t.reg x).toNat = 2 * (s.reg x).toNat % 256) ∧ t.pc = s.pc + 2 ∧
      ChangesOnly (fun p => p = .v x ∨ p = .v 15 ∨ p = .pc) s t)

/-- RANDOM (R131): the mask and a drawn byte, so no 1 bit outside the mask. The byte is the model's free value and the count
of draws the model's own field, for the spec's decision D12 (log 2). -/
def Obligations.RandomIsADrawnByteUnderTheMask : Prop :=
  ∀ (x : Reg) (nn : Byte) (s : State),
    decode (BitVec.ofNat 16 (0xC000 + 0x100 * x.val + nn.toNat)) = .random x nn ∧
    ∃ t, exec (.random x nn) s = .next t ∧ t.reg x = nn &&& Config.randomByte s.draws ∧ t.draws = s.draws + 1 ∧
      (∀ k, (t.reg x).getLsbD k = true → nn.getLsbD k = true) ∧ t.pc = s.pc + 2 ∧
      ChangesOnly (fun p => p = .v x ∨ p = .pc ∨ p = .draws) s t

/-! ## Index register and memory -/

/-- R140: SET-INDEX, the upper four bits of I becoming 0. -/
def Obligations.SetIndexLoadsTheLiteral : Prop :=
  ∀ (nnn : Addr) (s : State),
    decode (BitVec.ofNat 16 (0xA000 + nnn.toNat)) = .setIndex nnn ∧
    ∃ t, exec (.setIndex nnn) s = .next t ∧ t.i.toNat = nnn.toNat ∧ t.pc = s.pc + 2 ∧
      ChangesOnly (fun p => p = .i ∨ p = .pc) s t

/-- ADD-INDEX and GLYPH-ADDR (R141, R142): the sum modulo 65536 with no flag, and five times the whole byte: the spec's
decisions D10 and D23 (log 13, log 16). -/
def Obligations.AddIndexAndGlyphAddress : Prop :=
  ∀ (x : Reg) (s : State),
    decode (BitVec.ofNat 16 (0xF01E + 0x100 * x.val)) = .addIndex x ∧
    decode (BitVec.ofNat 16 (0xF029 + 0x100 * x.val)) = .glyphAddr x ∧
    (∃ t, exec (.addIndex x) s = .next t ∧ t.i.toNat = (s.i.toNat + (s.reg x).toNat) % 65536 ∧ t.pc = s.pc + 2 ∧
      ChangesOnly (fun p => p = .i ∨ p = .pc) s t) ∧
    (∃ t, exec (.glyphAddr x) s = .next t ∧ t.i.toNat = 5 * (s.reg x).toNat ∧ t.pc = s.pc + 2 ∧
      ChangesOnly (fun p => p = .i ∨ p = .pc) s t)

/-- BCD (R143): the hundreds, tens and ones digits at I, I + 1 and I + 2 and nowhere else, or `AddressOutOfRange`. The digit
order, the error, that I stays and that the store lands at every I in range, the glyph table and the bytes below 0x200
included, are the spec's decisions D9, D6, D24 and D11 (log 12, log 9, log 16, log 14). -/
def Obligations.BcdStoresThreeDigits : Prop :=
  ∀ (x : Reg) (s : State), s.mem.wf = true →
    decode (BitVec.ofNat 16 (0xF033 + 0x100 * x.val)) = .bcd x ∧
    (s.i.toNat + 2 ≤ 0xFFF → ∃ t, exec (.bcd x) s = .next t ∧
      (t.byteAt s.i.toNat).toNat = (s.reg x).toNat / 100 ∧
      (t.byteAt (s.i.toNat + 1)).toNat = (s.reg x).toNat / 10 % 10 ∧
      (t.byteAt (s.i.toNat + 2)).toNat = (s.reg x).toNat % 10 ∧ t.pc = s.pc + 2 ∧
      ChangesOnly (fun p => p = .pc ∨ ∃ a, p = .mem a ∧ s.i.toNat ≤ a ∧ a ≤ s.i.toNat + 2) s t) ∧
    (0xFFF < s.i.toNat + 2 → exec (.bcd x) s = .fault (.addressOutOfRange (.data s.i)))

/-- REG-DUMP (R144): V[0] to V[X] at I to I + X and nowhere else, or `AddressOutOfRange`. The error, that I stays
and that the store lands at every I in range, the glyph table and the bytes below 0x200 included, are the spec's decisions D6,
D24 and D11 (log 9, log 16, log 14). -/
def Obligations.RegDumpStoresTheRegisters : Prop :=
  ∀ (x : Reg) (s : State), s.mem.wf = true →
    decode (BitVec.ofNat 16 (0xF055 + 0x100 * x.val)) = .regDump x ∧
    (s.i.toNat + x.val ≤ 0xFFF → ∃ t, exec (.regDump x) s = .next t ∧
      (∀ k : Reg, k ≤ x → t.byteAt (s.i.toNat + k.val) = s.reg k) ∧ t.pc = s.pc + 2 ∧
      ChangesOnly (fun p => p = .pc ∨ ∃ a, p = .mem a ∧ s.i.toNat ≤ a ∧ a ≤ s.i.toNat + x.val) s t) ∧
    (0xFFF < s.i.toNat + x.val → exec (.regDump x) s = .fault (.addressOutOfRange (.data s.i)))

/-- REG-LOAD (R145): V[0] to V[X] from I to I + X, the registers above unchanged, or `AddressOutOfRange`. The error and that I
stays are the spec's decisions D6 and D24 (log 9, log 16). -/
def Obligations.RegLoadReadsTheRegisters : Prop :=
  ∀ (x : Reg) (s : State),
    decode (BitVec.ofNat 16 (0xF065 + 0x100 * x.val)) = .regLoad x ∧
    (s.i.toNat + x.val ≤ 0xFFF → ∃ t, exec (.regLoad x) s = .next t ∧
      (∀ k : Reg, k ≤ x → t.reg k = s.byteAt (s.i.toNat + k.val)) ∧ t.pc = s.pc + 2 ∧
      ChangesOnly (fun p => p = .pc ∨ ∃ k : Reg, p = .v k ∧ k ≤ x) s t) ∧
    (0xFFF < s.i.toNat + x.val → exec (.regLoad x) s = .fault (.addressOutOfRange (.data s.i)))

/-! ## Display -/

/-- R160: CLEAR. -/
def Obligations.ClearBlanksTheFramebuffer : Prop :=
  ∀ s : State,
    decode 0x00E0 = .clear ∧
    ∃ t, exec .clear s = .next t ∧ (∀ y x, t.pixel y x = false) ∧ t.dirty = true ∧ t.pc = s.pc + 2 ∧
      ChangesOnly (fun p => (∃ y x, p = .fb y x) ∨ p = .dirty ∨ p = .pc) s t

/-- DRAW (R161, R163, R164): exactly the cells on which a 1 bit of the sprite lands are toggled, VF is 1 when such a cell was
set and 0 otherwise, DIRTY is set, nothing else changes; a sprite that reaches above 0xFFF raises `AddressOutOfRange`, and
one of no rows never does. That VF is cleared without collision, that a sprite out of range is an error and
that I stays are the spec's decisions D5, D6 and D24 (log 8, log 9, log 16). -/
def Obligations.DrawTogglesTheSpriteCells : Prop :=
  ∀ (vx vy : Reg) (n : Nibble) (s : State),
    decode (BitVec.ofNat 16 (0xD000 + 0x100 * vx.val + 0x10 * vy.val + n.toNat)) = .draw vx vy n ∧
    (n = 0 ∨ s.i.toNat + n.toNat - 1 ≤ 0xFFF → ∃ t, exec (.draw vx vy n) s = .next t ∧
      (∀ y x, s.spriteLands vx vy n y x → t.pixel y x = !s.pixel y x) ∧
      (∀ y x, ¬s.spriteLands vx vy n y x → t.pixel y x = s.pixel y x) ∧
      ((∃ y x, s.spriteLands vx vy n y x ∧ s.pixel y x = true) → t.reg 15 = 1) ∧
      ((∀ y x, s.spriteLands vx vy n y x → s.pixel y x = false) → t.reg 15 = 0) ∧
      t.dirty = true ∧ t.pc = s.pc + 2 ∧
      ChangesOnly (fun p => (∃ y x, p = .fb y x) ∨ p = .v 15 ∨ p = .dirty ∨ p = .pc) s t) ∧
    (n ≠ 0 → 0xFFF < s.i.toNat + n.toNat - 1 → exec (.draw vx vy n) s = .fault (.addressOutOfRange (.data s.i)))

/-- Drawing the same sprite twice at the same coordinates restores every cell; drawn first on clear cells, with at least one 1
bit, it sets VF to 0 and then to 1 (source property S6 and Q10 of spec/95_test_vectors.md; R161, R163). Neither coordinate
register is VF, which the first draw overwrites. VF after the first draw is the spec's decision D5 (log 8); that the second
reads the same sprite rests on its decision D24, by which a DRAW leaves I alone (log 16); an access out of range, which the
premise leaves out, is its decision D6 (log 9). -/
def Obligations.DrawingTwiceRestoresTheFramebuffer : Prop :=
  ∀ (vx vy : Reg) (n : Nibble) (s : State), vx ≠ 15 → vy ≠ 15 → n = 0 ∨ s.i.toNat + n.toNat - 1 ≤ 0xFFF →
    ∃ t u, exec (.draw vx vy n) s = .next t ∧ exec (.draw vx vy n) t = .next u ∧
      (∀ y x, u.pixel y x = s.pixel y x) ∧
      ((∀ y x, s.spriteLands vx vy n y x → s.pixel y x = false) → (∃ y x, s.spriteLands vx vy n y x) →
        t.reg 15 = 0 ∧ u.reg 15 = 1)

/-! ## Keypad and timers -/

/-- SKIP-KEY and SKIP-NOKEY (R180, R181, R187): on a key index 0 to 15 they skip by the state of that key; above, they raise
`AddressOutOfRange`, the spec's decision D7 (log 10). -/
def Obligations.SkipOnKeyState : Prop :=
  ∀ (x : Reg) (s : State),
    decode (BitVec.ofNat 16 (0xE09E + 0x100 * x.val)) = .skipKey x ∧
    decode (BitVec.ofNat 16 (0xE0A1 + 0x100 * x.val)) = .skipNokey x ∧
    (∀ k : Fin 16, (s.reg x).toNat = k.val →
      (∃ t, exec (.skipKey x) s = .next t ∧ t.pc = (if s.key[k] = true then s.pc + 4 else s.pc + 2) ∧
        ChangesOnly (fun p => p = .pc) s t) ∧
      (∃ t, exec (.skipNokey x) s = .next t ∧ t.pc = (if s.key[k] = true then s.pc + 2 else s.pc + 4) ∧
        ChangesOnly (fun p => p = .pc) s t)) ∧
    (15 < (s.reg x).toNat →
      exec (.skipKey x) s = .fault (.addressOutOfRange (.key (s.reg x))) ∧
      exec (.skipNokey x) s = .fault (.addressOutOfRange (.key (s.reg x))))

/-- R182: WAIT-KEY records its destination and enters AWAITING_KEY, whatever keys are pressed, and PC stays. -/
def Obligations.WaitKeyRecordsAndWaits : Prop :=
  ∀ (x : Reg) (s : State),
    decode (BitVec.ofNat 16 (0xF00A + 0x100 * x.val)) = .waitKey x ∧
    ∃ t, exec (.waitKey x) s = .next t ∧ t.waitReg = x ∧ t.mode = .awaitingKey ∧
      ChangesOnly (fun p => p = .waitReg ∨ p = .mode) s t

/-- R184 and R185: GET-DELAY and SET-DELAY. -/
def Obligations.GetAndSetDelay : Prop :=
  ∀ (x : Reg) (s : State),
    decode (BitVec.ofNat 16 (0xF007 + 0x100 * x.val)) = .getDelay x ∧
    decode (BitVec.ofNat 16 (0xF015 + 0x100 * x.val)) = .setDelay x ∧
    (∃ t, exec (.getDelay x) s = .next t ∧ t.reg x = s.dt ∧ t.pc = s.pc + 2 ∧
      ChangesOnly (fun p => p = .v x ∨ p = .pc) s t) ∧
    (∃ t, exec (.setDelay x) s = .next t ∧ t.dt = s.reg x ∧ t.pc = s.pc + 2 ∧
      ChangesOnly (fun p => p = .dt ∨ p = .pc) s t)

/-- SET-SOUND (R186): ST takes the register, and the step that runs it emits no beep or other pulse, the spec's decision D15
(log 18). -/
def Obligations.SetSoundNeverBeeps : Prop :=
  ∀ (x : Reg) (s : State),
    decode (BitVec.ofNat 16 (0xF018 + 0x100 * x.val)) = .setSound x ∧
    (∃ t, exec (.setSound x) s = .next t ∧ t.st = s.reg x ∧ t.pc = s.pc + 2 ∧
      ChangesOnly (fun p => p = .st ∨ p = .pc) s t) ∧
    (s.mode = .running → s.pc.toNat ≤ 4094 → fetchWord s = BitVec.ofNat 16 (0xF018 + 0x100 * x.val) →
      (deliver .step s).outputs = [])

/-! ## The fallback -/

/-- UNKNOWN (R66, R85, R204): a word that selects no row is a no-op that advances PC by 2, returns ok and reports the word and
its address. The exact matching and the form of the report are the spec's decision D14 (log 15). -/
def Obligations.UnknownWordIsAReportedNoOp : Prop :=
  (∀ w : Word, isUnknownWord w = true → decode w = .unknown w) ∧
  (∀ (w : Word) (s : State), ∃ t, exec (.unknown w) s = .next t ∧ t.pc = s.pc + 2 ∧ ChangesOnly (fun p => p = .pc) s t) ∧
  (∀ s : State, s.mode = .running → s.pc.toNat ≤ 4094 → isUnknownWord (fetchWord s) = true →
    (deliver .step s).reply = .ok ∧ (deliver .step s).outputs = [.unknownOpcode (fetchWord s) s.pc])

/-! ## Host events -/

/-- R213: `tick` decrements each timer that is not zero, emits one beep when the sound timer was exactly 1, touches nothing
else, works in both modes and cannot fail. -/
def Obligations.TickCountsBothTimersDown : Prop :=
  ∀ s : State,
    (deliver .tick s).state.dt.toNat = s.dt.toNat - 1 ∧
    (deliver .tick s).state.st.toNat = s.st.toNat - 1 ∧
    (deliver .tick s).reply = .ok ∧
    (deliver .tick s).outputs = (if s.st.toNat = 1 then [.beep] else []) ∧
    ChangesOnly (fun p => p = .dt ∨ p = .st) s (deliver .tick s).state

/-- After n ticks and nothing else each timer has counted down by n or to zero, and there has been exactly one beep if the
sound timer reached zero on the way, none otherwise (R213, R214; Q11 of spec/95_test_vectors.md). -/
def Obligations.TicksCountDownAndBeepOnce : Prop :=
  ∀ (n : Nat) (s : State),
    (deliverAll (List.replicate n .tick) s).1.dt.toNat = s.dt.toNat - n ∧
    (deliverAll (List.replicate n .tick) s).1.st.toNat = s.st.toNat - n ∧
    (deliverAll (List.replicate n .tick) s).2 = (if 1 ≤ s.st.toNat ∧ s.st.toNat ≤ n then [.beep] else [])

/-- R217: `set_key` writes its one key and nothing else, never fails, and setting a key to the value it has changes
nothing. -/
def Obligations.SetKeyWritesOneKey : Prop :=
  ∀ (s : State) (k : Fin 16) (pressed : Bool),
    (deliver (.setKey k pressed) s).state.key[k] = pressed ∧
    (deliver (.setKey k pressed) s).reply = .ok ∧
    (deliver (.setKey k pressed) s).outputs = [] ∧
    ChangesOnly (fun p => p = .key k) s (deliver (.setKey k pressed) s).state ∧
    (s.key[k] = pressed → (deliver (.setKey k pressed) s).state = s)

/-- The framebuffer boundary (R218): `clear_dirty` clears the flag and nothing else, `snapshot` answers the cells and
`is_dirty` the flag. That bit 64*y + x of the flat snapshot is the cell in column x and row y is the spec's decision D17
(log 21). -/
def Obligations.FramebufferBoundaryReadsAndClears : Prop :=
  ∀ s : State,
    (deliver .clearDirty s).state.dirty = false ∧
    ChangesOnly (fun p => p = .dirty) s (deliver .clearDirty s).state ∧
    deliver .snapshot s = ⟨s, .grid s.fb, []⟩ ∧
    deliver .isDirty s = ⟨s, .flag s.dirty, []⟩ ∧
    (∀ (y : Fin 32) (x : Fin 64) (n : Fin 2048), n.val = 64 * y.val + x.val → snapshotBit s n = s.pixel y x)
end

