-- ==== Sys2Proof/Laws/Decode.lean ====
section
/-! SUPPORT. The fields of a word as arithmetic, the fields of an encoded word, and a row's mask as a test on fields
(30_encoding.md R61 to R64). -/

namespace Sys2Proof

/-! ## Fields as arithmetic -/

theorem fieldOp_toNat (w : Word) : (fieldOp w).toNat = w.toNat / 0x1000 := by
  have := w.isLt
  simp [fieldOp, Nat.shiftRight_eq_div_pow]
  omega

theorem fieldX_val (w : Word) : (fieldX w).val = w.toNat / 0x100 % 16 := by
  simp [fieldX, Nat.shiftRight_eq_div_pow]

theorem fieldY_val (w : Word) : (fieldY w).val = w.toNat / 0x10 % 16 := by
  simp [fieldY, Nat.shiftRight_eq_div_pow]

theorem fieldN_toNat (w : Word) : (fieldN w).toNat = w.toNat % 16 := by simp [fieldN]

theorem fieldNN_toNat (w : Word) : (fieldNN w).toNat = w.toNat % 0x100 := by simp [fieldNN]

theorem fieldNNN_toNat (w : Word) : (fieldNNN w).toNat = w.toNat % 0x1000 := by simp [fieldNNN]

/-! ## Encoded words as arithmetic -/

theorem encodeNNN_toNat {op : Nat} (h : op < 16) (nnn : Addr) :
    (encodeNNN op nnn).toNat = op * 0x1000 + nnn.toNat := by
  have := nnn.isLt
  rw [encodeNNN, BitVec.toNat_ofNat]
  omega

theorem encodeXNN_toNat {op : Nat} (h : op < 16) (x : Reg) (nn : Byte) :
    (encodeXNN op x nn).toNat = op * 0x1000 + x.val * 0x100 + nn.toNat := by
  have := nn.isLt
  rw [encodeXNN, BitVec.toNat_ofNat]
  omega

theorem encodeXYN_toNat {op : Nat} (h : op < 16) (x y : Reg) (n : Nibble) :
    (encodeXYN op x y n).toNat = op * 0x1000 + x.val * 0x100 + y.val * 0x10 + n.toNat := by
  have := n.isLt
  rw [encodeXYN, BitVec.toNat_ofNat]
  omega

/-! ## The fields of an encoded word -/

theorem fieldOp_encodeNNN {op : Nat} (h : op < 16) (nnn : Addr) : (fieldOp (encodeNNN op nnn)).toNat = op := by
  rw [fieldOp_toNat, encodeNNN_toNat h]
  omega

theorem fieldNNN_encodeNNN {op : Nat} (h : op < 16) (nnn : Addr) : fieldNNN (encodeNNN op nnn) = nnn := by
  apply BitVec.eq_of_toNat_eq
  rw [fieldNNN_toNat, encodeNNN_toNat h]
  omega

theorem fieldOp_encodeXNN {op : Nat} (h : op < 16) (x : Reg) (nn : Byte) : (fieldOp (encodeXNN op x nn)).toNat = op := by
  rw [fieldOp_toNat, encodeXNN_toNat h]
  omega

theorem fieldX_encodeXNN {op : Nat} (h : op < 16) (x : Reg) (nn : Byte) : fieldX (encodeXNN op x nn) = x := by
  apply Fin.ext
  rw [fieldX_val, encodeXNN_toNat h]
  omega

theorem fieldNN_encodeXNN {op : Nat} (h : op < 16) (x : Reg) (nn : Byte) : fieldNN (encodeXNN op x nn) = nn := by
  apply BitVec.eq_of_toNat_eq
  rw [fieldNN_toNat, encodeXNN_toNat h]
  omega

theorem fieldOp_encodeXYN {op : Nat} (h : op < 16) (x y : Reg) (n : Nibble) :
    (fieldOp (encodeXYN op x y n)).toNat = op := by
  rw [fieldOp_toNat, encodeXYN_toNat h]
  omega

theorem fieldX_encodeXYN {op : Nat} (h : op < 16) (x y : Reg) (n : Nibble) : fieldX (encodeXYN op x y n) = x := by
  apply Fin.ext
  rw [fieldX_val, encodeXYN_toNat h]
  omega

theorem fieldY_encodeXYN {op : Nat} (h : op < 16) (x y : Reg) (n : Nibble) : fieldY (encodeXYN op x y n) = y := by
  apply Fin.ext
  rw [fieldY_val, encodeXYN_toNat h]
  omega

theorem fieldN_encodeXYN {op : Nat} (h : op < 16) (x y : Reg) (n : Nibble) : fieldN (encodeXYN op x y n) = n := by
  apply BitVec.eq_of_toNat_eq
  rw [fieldN_toNat, encodeXYN_toNat h]
  omega

/-! ## Masks as tests on fields -/

/-- The mask 0xF000 keeps the family. -/
theorem and_F000 (w : Word) : w &&& 0xF000#16 = fieldOp w ++ 0#12 := by
  apply BitVec.eq_of_getLsbD_eq
  intro i hi
  rw [BitVec.getLsbD_append]
  interval_cases i <;> simp [fieldOp]

/-- The mask 0xF00F keeps the family and `N`. -/
theorem and_F00F (w : Word) : w &&& 0xF00F#16 = (fieldOp w ++ (0#8 ++ fieldN w) : BitVec 16) := by
  apply BitVec.eq_of_getLsbD_eq
  intro i hi
  rw [BitVec.getLsbD_append, BitVec.getLsbD_append]
  interval_cases i <;> simp [fieldOp, fieldN]

/-- The mask 0xF0FF keeps the family and `NN`. -/
theorem and_F0FF (w : Word) : w &&& 0xF0FF#16 = (fieldOp w ++ (0#4 ++ fieldNN w) : BitVec 16) := by
  apply BitVec.eq_of_getLsbD_eq
  intro i hi
  rw [BitVec.getLsbD_append, BitVec.getLsbD_append]
  interval_cases i <;> simp [fieldOp, fieldNN]

theorem selects_F000 {w : Word} {op : Nibble} (h : (fieldOp w).toNat = op.toNat) :
    (OpcodeRow.mk (op ++ 0#12) 0xF000).selects w = true := by
  rw [OpcodeRow.selects, beq_iff_eq]
  exact (and_F000 w).trans (by rw [BitVec.eq_of_toNat_eq h])

theorem selects_F00F {w : Word} {op n : Nibble} (h : (fieldOp w).toNat = op.toNat) (hn : fieldN w = n) :
    (OpcodeRow.mk (op ++ (0#8 ++ n) : BitVec 16) 0xF00F).selects w = true := by
  rw [OpcodeRow.selects, beq_iff_eq]
  exact (and_F00F w).trans (by rw [BitVec.eq_of_toNat_eq h, hn])

theorem selects_F0FF {w : Word} {op : Nibble} {nn : Byte} (h : (fieldOp w).toNat = op.toNat) (hnn : fieldNN w = nn) :
    (OpcodeRow.mk (op ++ (0#4 ++ nn) : BitVec 16) 0xF0FF).selects w = true := by
  rw [OpcodeRow.selects, beq_iff_eq]
  exact (and_F0FF w).trans (by rw [BitVec.eq_of_toNat_eq h, hnn])

/-- A word stored high byte first reads back as itself. -/
theorem wordOfBytes_bytesOfWord (w : Word) : wordOfBytes (w.extractLsb' 8 8) (w.extractLsb' 0 8) = w := by
  apply BitVec.eq_of_getLsbD_eq
  intro i hi
  rw [wordOfBytes, BitVec.getLsbD_append]
  interval_cases i <;> simp

end Sys2Proof
end

