-- ==== Sys2Proof/Laws/Memory.lean ====
section
/-! SUPPORT. The laws of the memory list: every operation keeps the canonical form, a byte reads as it was last written,
and a write leaves every other byte alone. -/

namespace Sys2Proof.Machine

theorem Memory.wfFrom_cons (lo : Nat) (c : Host.Cell) (m : Memory) :
    Memory.wfFrom lo (c :: m) = true ↔
      lo ≤ c.1 ∧ c.1 < Config.memSize ∧ c.2 ≠ memBackground c.1 ∧ Memory.wfFrom (c.1 + 1) m = true := by
  simp [Memory.wfFrom, and_assoc]

theorem Memory.wfFrom_le {lo lo' : Nat} {m : Memory} (h : Memory.wfFrom lo m = true) (hle : lo' ≤ lo) :
    Memory.wfFrom lo' m = true := by
  cases m with
  | nil => rfl
  | cons c m =>
    rw [Memory.wfFrom_cons] at h ⊢
    exact ⟨by omega, h.2⟩

/-- An address below every listed one reads as it does unlisted. -/
theorem Memory.read_below {lo a : Nat} {m : Memory} (h : Memory.wfFrom lo m = true) (ha : a < lo) :
    m.read a = memBackground a := by
  induction m generalizing lo with
  | nil => rfl
  | cons c m ih =>
    rw [Memory.wfFrom_cons] at h
    rw [Memory.read, if_neg (by omega)]
    exact ih h.2.2.2 (by omega)

theorem Memory.read_memCell_append (a b m a') :
    Memory.read (memCell a b ++ m) a' = if a' = a ∧ b ≠ memBackground a then b else Memory.read m a' := by
  unfold memCell
  by_cases hb : b = memBackground a
  · simp [hb]
  · by_cases ha : a' = a
    · simp [hb, Memory.read, ha]
    · simp [hb, Memory.read, ha, Ne.symm ha]

/-- Read after write, over a canonical list. -/
theorem Memory.read_write_from {lo : Nat} {m : Memory} (h : Memory.wfFrom lo m = true) (a : Nat) (b : Byte) (a' : Nat) :
    (m.write a b).read a' = if a' = a then b else m.read a' := by
  induction m generalizing lo with
  | nil =>
    have hw : Memory.write [] a b = memCell a b ++ [] := by simp [Memory.write]
    rw [hw, Memory.read_memCell_append]
    by_cases ha : a' = a
    · subst ha
      by_cases hb : b = memBackground a'
      · simp [hb, Memory.read]
      · simp [hb]
    · simp [ha]
  | cons c m ih =>
    rw [Memory.wfFrom_cons] at h
    obtain ⟨_, _, _, hm⟩ := h
    have below : ∀ a'', a'' < c.1 + 1 → Memory.read m a'' = memBackground a'' := fun _ h' =>
      Memory.read_below hm h'
    unfold Memory.write
    split
    · rename_i hlt
      rw [Memory.read_memCell_append]
      by_cases ha : a' = a
      · subst ha
        by_cases hb : b = memBackground a'
        · simp only [hb, ne_eq, not_true_eq_false, and_false, if_false, if_true]
          rw [Memory.read, if_neg (by omega)]
          exact below a' (by omega)
        · simp [hb]
      · simp [ha]
    · split
      · rename_i hnlt heq
        rw [Memory.read_memCell_append]
        by_cases ha : a' = a
        · subst ha
          by_cases hb : b = memBackground a'
          · simp only [hb, ne_eq, not_true_eq_false, and_false, if_false, if_true]
            exact below a' (by omega)
          · simp [hb]
        · simp only [ha, false_and, if_false]
          rw [Memory.read, if_neg (by omega)]
      · rename_i hnlt hne
        rw [Memory.read, ih hm]
        by_cases ha : c.1 = a'
        · have : a' ≠ a := by omega
          simp [ha, this, Memory.read]
        · simp [ha, Memory.read]

theorem Memory.read_write {m : Memory} (h : m.wf = true) (a : Nat) (b : Byte) (a' : Nat) :
    (m.write a b).read a' = if a' = a then b else m.read a' := Memory.read_write_from h a b a'

theorem Memory.memCell_append_wf {lo a : Nat} {b : Byte} {m : Memory} (hlo : lo ≤ a) (ha : a < Config.memSize)
    (h : Memory.wfFrom (a + 1) m = true) : Memory.wfFrom lo (memCell a b ++ m) = true := by
  unfold memCell
  split
  · exact Memory.wfFrom_le h (by omega)
  · rename_i hb
    exact (Memory.wfFrom_cons lo (a, b) m).2 ⟨hlo, ha, hb, h⟩

theorem Memory.write_wfFrom {lo a : Nat} {b : Byte} {m : Memory} (h : Memory.wfFrom lo m = true) (hlo : lo ≤ a)
    (ha : a < Config.memSize) : Memory.wfFrom lo (m.write a b) = true := by
  induction m generalizing lo with
  | nil => simpa [Memory.write] using Memory.memCell_append_wf (b := b) (m := []) hlo ha rfl
  | cons c m ih =>
    have hc := (Memory.wfFrom_cons lo c m).1 h
    unfold Memory.write
    split
    · exact Memory.memCell_append_wf hlo ha
        ((Memory.wfFrom_cons _ c m).2 ⟨by omega, hc.2⟩)
    · split
      · rename_i heq
        exact Memory.memCell_append_wf hlo ha (by rw [heq]; exact hc.2.2.2)
      · exact (Memory.wfFrom_cons lo c _).2 ⟨hc.1, hc.2.1, hc.2.2.1, ih hc.2.2.2 (by omega)⟩

/-- A write in range keeps the canonical form. -/
theorem Memory.write_wf {m : Memory} (h : m.wf = true) {a : Nat} (ha : a < Config.memSize) (b : Byte) :
    (m.write a b).wf = true := Memory.write_wfFrom h (Nat.zero_le a) ha

/-- A run of writes in range keeps the canonical form. -/
theorem Memory.writeBytes_wf {m : Memory} (h : m.wf = true) {a : Nat} {bs : List Byte}
    (ha : a + bs.length ≤ Config.memSize) : (m.writeBytes a bs).wf = true := by
  induction bs generalizing m a with
  | nil => exact h
  | cons b bs ih =>
    rw [List.length_cons] at ha
    exact ih (Memory.write_wf h (by omega) b) (by omega)

/-- What every byte reads as after a run of writes in range. -/
theorem Memory.read_writeBytes {m : Memory} (h : m.wf = true) {a : Nat} {bs : List Byte}
    (ha : a + bs.length ≤ Config.memSize) (a' : Nat) :
    (m.writeBytes a bs).read a' =
      if a ≤ a' ∧ a' < a + bs.length then bs.getD (a' - a) 0 else m.read a' := by
  induction bs generalizing m a with
  | nil => simp [Memory.writeBytes]
  | cons b bs ih =>
    rw [List.length_cons] at ha
    rw [Memory.writeBytes, ih (Memory.write_wf h (by omega) b) (by omega), Memory.read_write h, List.length_cons]
    by_cases h1 : a' = a
    · subst h1
      rw [if_neg (by omega), if_pos rfl, if_pos (by omega)]
      simp
    · by_cases h2 : a + 1 ≤ a' ∧ a' < a + 1 + bs.length
      · rw [if_pos h2, if_pos (by omega), show a' - a = (a' - (a + 1)) + 1 by omega, List.getD_cons_succ]
      · rw [if_neg h2, if_neg h1, if_neg (by omega)]

@[simp] theorem Memory.readBytes_length (m : Memory) (a n : Nat) : (m.readBytes a n).length = n := by
  induction n generalizing a with
  | zero => rfl
  | succ n ih => simp [Memory.readBytes, ih]

theorem Memory.readBytes_getElem (m : Memory) (a n k : Nat) (h : k < (m.readBytes a n).length) :
    (m.readBytes a n)[k] = m.read (a + k) := by
  induction n generalizing a k with
  | zero => simp [Memory.readBytes] at h
  | succ n ih =>
    cases k with
    | zero => rfl
    | succ k =>
      simp only [Memory.readBytes, List.getElem_cons_succ]
      rw [ih]
      congr 1
      omega

end Sys2Proof.Machine
end

