-- ==== Sys2Proof/Laws/State.lean ====
section
/-! SUPPORT. One lemma per field per update of the state, true by rfl: later proofs never unfold a record update. -/

namespace Sys2Proof.Machine

@[simp] theorem State.setReg_v (s : State) (r : Reg) (b : Byte) : (s.setReg r b).v = s.v.set r b := rfl
@[simp] theorem State.setReg_i (s : State) (r : Reg) (b : Byte) : (s.setReg r b).i = s.i := rfl
@[simp] theorem State.setReg_pc (s : State) (r : Reg) (b : Byte) : (s.setReg r b).pc = s.pc := rfl
@[simp] theorem State.setReg_stack (s : State) (r : Reg) (b : Byte) : (s.setReg r b).stack = s.stack := rfl
@[simp] theorem State.setReg_sp (s : State) (r : Reg) (b : Byte) : (s.setReg r b).sp = s.sp := rfl
@[simp] theorem State.setReg_dt (s : State) (r : Reg) (b : Byte) : (s.setReg r b).dt = s.dt := rfl
@[simp] theorem State.setReg_st (s : State) (r : Reg) (b : Byte) : (s.setReg r b).st = s.st := rfl
@[simp] theorem State.setReg_key (s : State) (r : Reg) (b : Byte) : (s.setReg r b).key = s.key := rfl
@[simp] theorem State.setReg_fb (s : State) (r : Reg) (b : Byte) : (s.setReg r b).fb = s.fb := rfl
@[simp] theorem State.setReg_dirty (s : State) (r : Reg) (b : Byte) : (s.setReg r b).dirty = s.dirty := rfl
@[simp] theorem State.setReg_mode (s : State) (r : Reg) (b : Byte) : (s.setReg r b).mode = s.mode := rfl
@[simp] theorem State.setReg_waitReg (s : State) (r : Reg) (b : Byte) : (s.setReg r b).waitReg = s.waitReg := rfl
@[simp] theorem State.setReg_mem (s : State) (r : Reg) (b : Byte) : (s.setReg r b).mem = s.mem := rfl
@[simp] theorem State.setReg_draws (s : State) (r : Reg) (b : Byte) : (s.setReg r b).draws = s.draws := rfl

@[simp] theorem State.setIndex_v (s : State) (w : Word) : (s.setIndex w).v = s.v := rfl
@[simp] theorem State.setIndex_i (s : State) (w : Word) : (s.setIndex w).i = w := rfl
@[simp] theorem State.setIndex_pc (s : State) (w : Word) : (s.setIndex w).pc = s.pc := rfl
@[simp] theorem State.setIndex_stack (s : State) (w : Word) : (s.setIndex w).stack = s.stack := rfl
@[simp] theorem State.setIndex_sp (s : State) (w : Word) : (s.setIndex w).sp = s.sp := rfl
@[simp] theorem State.setIndex_dt (s : State) (w : Word) : (s.setIndex w).dt = s.dt := rfl
@[simp] theorem State.setIndex_st (s : State) (w : Word) : (s.setIndex w).st = s.st := rfl
@[simp] theorem State.setIndex_key (s : State) (w : Word) : (s.setIndex w).key = s.key := rfl
@[simp] theorem State.setIndex_fb (s : State) (w : Word) : (s.setIndex w).fb = s.fb := rfl
@[simp] theorem State.setIndex_dirty (s : State) (w : Word) : (s.setIndex w).dirty = s.dirty := rfl
@[simp] theorem State.setIndex_mode (s : State) (w : Word) : (s.setIndex w).mode = s.mode := rfl
@[simp] theorem State.setIndex_waitReg (s : State) (w : Word) : (s.setIndex w).waitReg = s.waitReg := rfl
@[simp] theorem State.setIndex_mem (s : State) (w : Word) : (s.setIndex w).mem = s.mem := rfl
@[simp] theorem State.setIndex_draws (s : State) (w : Word) : (s.setIndex w).draws = s.draws := rfl

@[simp] theorem State.setDelay_v (s : State) (b : Byte) : (s.setDelay b).v = s.v := rfl
@[simp] theorem State.setDelay_i (s : State) (b : Byte) : (s.setDelay b).i = s.i := rfl
@[simp] theorem State.setDelay_pc (s : State) (b : Byte) : (s.setDelay b).pc = s.pc := rfl
@[simp] theorem State.setDelay_stack (s : State) (b : Byte) : (s.setDelay b).stack = s.stack := rfl
@[simp] theorem State.setDelay_sp (s : State) (b : Byte) : (s.setDelay b).sp = s.sp := rfl
@[simp] theorem State.setDelay_dt (s : State) (b : Byte) : (s.setDelay b).dt = b := rfl
@[simp] theorem State.setDelay_st (s : State) (b : Byte) : (s.setDelay b).st = s.st := rfl
@[simp] theorem State.setDelay_key (s : State) (b : Byte) : (s.setDelay b).key = s.key := rfl
@[simp] theorem State.setDelay_fb (s : State) (b : Byte) : (s.setDelay b).fb = s.fb := rfl
@[simp] theorem State.setDelay_dirty (s : State) (b : Byte) : (s.setDelay b).dirty = s.dirty := rfl
@[simp] theorem State.setDelay_mode (s : State) (b : Byte) : (s.setDelay b).mode = s.mode := rfl
@[simp] theorem State.setDelay_waitReg (s : State) (b : Byte) : (s.setDelay b).waitReg = s.waitReg := rfl
@[simp] theorem State.setDelay_mem (s : State) (b : Byte) : (s.setDelay b).mem = s.mem := rfl
@[simp] theorem State.setDelay_draws (s : State) (b : Byte) : (s.setDelay b).draws = s.draws := rfl

@[simp] theorem State.setSound_v (s : State) (b : Byte) : (s.setSound b).v = s.v := rfl
@[simp] theorem State.setSound_i (s : State) (b : Byte) : (s.setSound b).i = s.i := rfl
@[simp] theorem State.setSound_pc (s : State) (b : Byte) : (s.setSound b).pc = s.pc := rfl
@[simp] theorem State.setSound_stack (s : State) (b : Byte) : (s.setSound b).stack = s.stack := rfl
@[simp] theorem State.setSound_sp (s : State) (b : Byte) : (s.setSound b).sp = s.sp := rfl
@[simp] theorem State.setSound_dt (s : State) (b : Byte) : (s.setSound b).dt = s.dt := rfl
@[simp] theorem State.setSound_st (s : State) (b : Byte) : (s.setSound b).st = b := rfl
@[simp] theorem State.setSound_key (s : State) (b : Byte) : (s.setSound b).key = s.key := rfl
@[simp] theorem State.setSound_fb (s : State) (b : Byte) : (s.setSound b).fb = s.fb := rfl
@[simp] theorem State.setSound_dirty (s : State) (b : Byte) : (s.setSound b).dirty = s.dirty := rfl
@[simp] theorem State.setSound_mode (s : State) (b : Byte) : (s.setSound b).mode = s.mode := rfl
@[simp] theorem State.setSound_waitReg (s : State) (b : Byte) : (s.setSound b).waitReg = s.waitReg := rfl
@[simp] theorem State.setSound_mem (s : State) (b : Byte) : (s.setSound b).mem = s.mem := rfl
@[simp] theorem State.setSound_draws (s : State) (b : Byte) : (s.setSound b).draws = s.draws := rfl

@[simp] theorem State.setPc_v (s : State) (w : Word) : (s.setPc w).v = s.v := rfl
@[simp] theorem State.setPc_i (s : State) (w : Word) : (s.setPc w).i = s.i := rfl
@[simp] theorem State.setPc_pc (s : State) (w : Word) : (s.setPc w).pc = w := rfl
@[simp] theorem State.setPc_stack (s : State) (w : Word) : (s.setPc w).stack = s.stack := rfl
@[simp] theorem State.setPc_sp (s : State) (w : Word) : (s.setPc w).sp = s.sp := rfl
@[simp] theorem State.setPc_dt (s : State) (w : Word) : (s.setPc w).dt = s.dt := rfl
@[simp] theorem State.setPc_st (s : State) (w : Word) : (s.setPc w).st = s.st := rfl
@[simp] theorem State.setPc_key (s : State) (w : Word) : (s.setPc w).key = s.key := rfl
@[simp] theorem State.setPc_fb (s : State) (w : Word) : (s.setPc w).fb = s.fb := rfl
@[simp] theorem State.setPc_dirty (s : State) (w : Word) : (s.setPc w).dirty = s.dirty := rfl
@[simp] theorem State.setPc_mode (s : State) (w : Word) : (s.setPc w).mode = s.mode := rfl
@[simp] theorem State.setPc_waitReg (s : State) (w : Word) : (s.setPc w).waitReg = s.waitReg := rfl
@[simp] theorem State.setPc_mem (s : State) (w : Word) : (s.setPc w).mem = s.mem := rfl
@[simp] theorem State.setPc_draws (s : State) (w : Word) : (s.setPc w).draws = s.draws := rfl

@[simp] theorem State.advance_v (s : State) : (s.advance).v = s.v := rfl
@[simp] theorem State.advance_i (s : State) : (s.advance).i = s.i := rfl
@[simp] theorem State.advance_pc (s : State) : (s.advance).pc = s.pc + 2 := rfl
@[simp] theorem State.advance_stack (s : State) : (s.advance).stack = s.stack := rfl
@[simp] theorem State.advance_sp (s : State) : (s.advance).sp = s.sp := rfl
@[simp] theorem State.advance_dt (s : State) : (s.advance).dt = s.dt := rfl
@[simp] theorem State.advance_st (s : State) : (s.advance).st = s.st := rfl
@[simp] theorem State.advance_key (s : State) : (s.advance).key = s.key := rfl
@[simp] theorem State.advance_fb (s : State) : (s.advance).fb = s.fb := rfl
@[simp] theorem State.advance_dirty (s : State) : (s.advance).dirty = s.dirty := rfl
@[simp] theorem State.advance_mode (s : State) : (s.advance).mode = s.mode := rfl
@[simp] theorem State.advance_waitReg (s : State) : (s.advance).waitReg = s.waitReg := rfl
@[simp] theorem State.advance_mem (s : State) : (s.advance).mem = s.mem := rfl
@[simp] theorem State.advance_draws (s : State) : (s.advance).draws = s.draws := rfl

@[simp] theorem State.skipIf_v (s : State) (c : Bool) : (s.skipIf c).v = s.v := rfl
@[simp] theorem State.skipIf_i (s : State) (c : Bool) : (s.skipIf c).i = s.i := rfl
@[simp] theorem State.skipIf_pc (s : State) (c : Bool) : (s.skipIf c).pc = if c then s.pc + 4 else s.pc + 2 := rfl
@[simp] theorem State.skipIf_stack (s : State) (c : Bool) : (s.skipIf c).stack = s.stack := rfl
@[simp] theorem State.skipIf_sp (s : State) (c : Bool) : (s.skipIf c).sp = s.sp := rfl
@[simp] theorem State.skipIf_dt (s : State) (c : Bool) : (s.skipIf c).dt = s.dt := rfl
@[simp] theorem State.skipIf_st (s : State) (c : Bool) : (s.skipIf c).st = s.st := rfl
@[simp] theorem State.skipIf_key (s : State) (c : Bool) : (s.skipIf c).key = s.key := rfl
@[simp] theorem State.skipIf_fb (s : State) (c : Bool) : (s.skipIf c).fb = s.fb := rfl
@[simp] theorem State.skipIf_dirty (s : State) (c : Bool) : (s.skipIf c).dirty = s.dirty := rfl
@[simp] theorem State.skipIf_mode (s : State) (c : Bool) : (s.skipIf c).mode = s.mode := rfl
@[simp] theorem State.skipIf_waitReg (s : State) (c : Bool) : (s.skipIf c).waitReg = s.waitReg := rfl
@[simp] theorem State.skipIf_mem (s : State) (c : Bool) : (s.skipIf c).mem = s.mem := rfl
@[simp] theorem State.skipIf_draws (s : State) (c : Bool) : (s.skipIf c).draws = s.draws := rfl

@[simp] theorem State.paint_v (s : State) (fb : Framebuffer) : (s.paint fb).v = s.v := rfl
@[simp] theorem State.paint_i (s : State) (fb : Framebuffer) : (s.paint fb).i = s.i := rfl
@[simp] theorem State.paint_pc (s : State) (fb : Framebuffer) : (s.paint fb).pc = s.pc := rfl
@[simp] theorem State.paint_stack (s : State) (fb : Framebuffer) : (s.paint fb).stack = s.stack := rfl
@[simp] theorem State.paint_sp (s : State) (fb : Framebuffer) : (s.paint fb).sp = s.sp := rfl
@[simp] theorem State.paint_dt (s : State) (fb : Framebuffer) : (s.paint fb).dt = s.dt := rfl
@[simp] theorem State.paint_st (s : State) (fb : Framebuffer) : (s.paint fb).st = s.st := rfl
@[simp] theorem State.paint_key (s : State) (fb : Framebuffer) : (s.paint fb).key = s.key := rfl
@[simp] theorem State.paint_fb (s : State) (fb : Framebuffer) : (s.paint fb).fb = fb := rfl
@[simp] theorem State.paint_dirty (s : State) (fb : Framebuffer) : (s.paint fb).dirty = true := rfl
@[simp] theorem State.paint_mode (s : State) (fb : Framebuffer) : (s.paint fb).mode = s.mode := rfl
@[simp] theorem State.paint_waitReg (s : State) (fb : Framebuffer) : (s.paint fb).waitReg = s.waitReg := rfl
@[simp] theorem State.paint_mem (s : State) (fb : Framebuffer) : (s.paint fb).mem = s.mem := rfl
@[simp] theorem State.paint_draws (s : State) (fb : Framebuffer) : (s.paint fb).draws = s.draws := rfl

@[simp] theorem State.setFlag_v (s : State) (f : Bool) : (s.setFlag f).v = s.v.set Reg.flag (flagByte f) := rfl
@[simp] theorem State.setFlag_i (s : State) (f : Bool) : (s.setFlag f).i = s.i := rfl
@[simp] theorem State.setFlag_pc (s : State) (f : Bool) : (s.setFlag f).pc = s.pc := rfl
@[simp] theorem State.setFlag_stack (s : State) (f : Bool) : (s.setFlag f).stack = s.stack := rfl
@[simp] theorem State.setFlag_sp (s : State) (f : Bool) : (s.setFlag f).sp = s.sp := rfl
@[simp] theorem State.setFlag_dt (s : State) (f : Bool) : (s.setFlag f).dt = s.dt := rfl
@[simp] theorem State.setFlag_st (s : State) (f : Bool) : (s.setFlag f).st = s.st := rfl
@[simp] theorem State.setFlag_key (s : State) (f : Bool) : (s.setFlag f).key = s.key := rfl
@[simp] theorem State.setFlag_fb (s : State) (f : Bool) : (s.setFlag f).fb = s.fb := rfl
@[simp] theorem State.setFlag_dirty (s : State) (f : Bool) : (s.setFlag f).dirty = s.dirty := rfl
@[simp] theorem State.setFlag_mode (s : State) (f : Bool) : (s.setFlag f).mode = s.mode := rfl
@[simp] theorem State.setFlag_waitReg (s : State) (f : Bool) : (s.setFlag f).waitReg = s.waitReg := rfl
@[simp] theorem State.setFlag_mem (s : State) (f : Bool) : (s.setFlag f).mem = s.mem := rfl
@[simp] theorem State.setFlag_draws (s : State) (f : Bool) : (s.setFlag f).draws = s.draws := rfl

@[simp] theorem State.setResultAndFlag_v (s : State) (x : Reg) (b : Byte) (f : Bool) : (s.setResultAndFlag x b f).v = (s.v.set x b).set Reg.flag (flagByte f) := rfl
@[simp] theorem State.setResultAndFlag_i (s : State) (x : Reg) (b : Byte) (f : Bool) : (s.setResultAndFlag x b f).i = s.i := rfl
@[simp] theorem State.setResultAndFlag_pc (s : State) (x : Reg) (b : Byte) (f : Bool) : (s.setResultAndFlag x b f).pc = s.pc := rfl
@[simp] theorem State.setResultAndFlag_stack (s : State) (x : Reg) (b : Byte) (f : Bool) : (s.setResultAndFlag x b f).stack = s.stack := rfl
@[simp] theorem State.setResultAndFlag_sp (s : State) (x : Reg) (b : Byte) (f : Bool) : (s.setResultAndFlag x b f).sp = s.sp := rfl
@[simp] theorem State.setResultAndFlag_dt (s : State) (x : Reg) (b : Byte) (f : Bool) : (s.setResultAndFlag x b f).dt = s.dt := rfl
@[simp] theorem State.setResultAndFlag_st (s : State) (x : Reg) (b : Byte) (f : Bool) : (s.setResultAndFlag x b f).st = s.st := rfl
@[simp] theorem State.setResultAndFlag_key (s : State) (x : Reg) (b : Byte) (f : Bool) : (s.setResultAndFlag x b f).key = s.key := rfl
@[simp] theorem State.setResultAndFlag_fb (s : State) (x : Reg) (b : Byte) (f : Bool) : (s.setResultAndFlag x b f).fb = s.fb := rfl
@[simp] theorem State.setResultAndFlag_dirty (s : State) (x : Reg) (b : Byte) (f : Bool) : (s.setResultAndFlag x b f).dirty = s.dirty := rfl
@[simp] theorem State.setResultAndFlag_mode (s : State) (x : Reg) (b : Byte) (f : Bool) : (s.setResultAndFlag x b f).mode = s.mode := rfl
@[simp] theorem State.setResultAndFlag_waitReg (s : State) (x : Reg) (b : Byte) (f : Bool) : (s.setResultAndFlag x b f).waitReg = s.waitReg := rfl
@[simp] theorem State.setResultAndFlag_mem (s : State) (x : Reg) (b : Byte) (f : Bool) : (s.setResultAndFlag x b f).mem = s.mem := rfl
@[simp] theorem State.setResultAndFlag_draws (s : State) (x : Reg) (b : Byte) (f : Bool) : (s.setResultAndFlag x b f).draws = s.draws := rfl

@[simp] theorem tick_v (s : State) : (tick s).v = s.v := rfl
@[simp] theorem tick_i (s : State) : (tick s).i = s.i := rfl
@[simp] theorem tick_pc (s : State) : (tick s).pc = s.pc := rfl
@[simp] theorem tick_stack (s : State) : (tick s).stack = s.stack := rfl
@[simp] theorem tick_sp (s : State) : (tick s).sp = s.sp := rfl
@[simp] theorem tick_dt (s : State) : (tick s).dt = countDown s.dt := rfl
@[simp] theorem tick_st (s : State) : (tick s).st = countDown s.st := rfl
@[simp] theorem tick_key (s : State) : (tick s).key = s.key := rfl
@[simp] theorem tick_fb (s : State) : (tick s).fb = s.fb := rfl
@[simp] theorem tick_dirty (s : State) : (tick s).dirty = s.dirty := rfl
@[simp] theorem tick_mode (s : State) : (tick s).mode = s.mode := rfl
@[simp] theorem tick_waitReg (s : State) : (tick s).waitReg = s.waitReg := rfl
@[simp] theorem tick_mem (s : State) : (tick s).mem = s.mem := rfl
@[simp] theorem tick_draws (s : State) : (tick s).draws = s.draws := rfl

@[simp] theorem setKey_v (s : State) (k : Fin 16) (p : Bool) : (setKey s k p).v = s.v := rfl
@[simp] theorem setKey_i (s : State) (k : Fin 16) (p : Bool) : (setKey s k p).i = s.i := rfl
@[simp] theorem setKey_pc (s : State) (k : Fin 16) (p : Bool) : (setKey s k p).pc = s.pc := rfl
@[simp] theorem setKey_stack (s : State) (k : Fin 16) (p : Bool) : (setKey s k p).stack = s.stack := rfl
@[simp] theorem setKey_sp (s : State) (k : Fin 16) (p : Bool) : (setKey s k p).sp = s.sp := rfl
@[simp] theorem setKey_dt (s : State) (k : Fin 16) (p : Bool) : (setKey s k p).dt = s.dt := rfl
@[simp] theorem setKey_st (s : State) (k : Fin 16) (p : Bool) : (setKey s k p).st = s.st := rfl
@[simp] theorem setKey_key (s : State) (k : Fin 16) (p : Bool) : (setKey s k p).key = s.key.set k p := rfl
@[simp] theorem setKey_fb (s : State) (k : Fin 16) (p : Bool) : (setKey s k p).fb = s.fb := rfl
@[simp] theorem setKey_dirty (s : State) (k : Fin 16) (p : Bool) : (setKey s k p).dirty = s.dirty := rfl
@[simp] theorem setKey_mode (s : State) (k : Fin 16) (p : Bool) : (setKey s k p).mode = s.mode := rfl
@[simp] theorem setKey_waitReg (s : State) (k : Fin 16) (p : Bool) : (setKey s k p).waitReg = s.waitReg := rfl
@[simp] theorem setKey_mem (s : State) (k : Fin 16) (p : Bool) : (setKey s k p).mem = s.mem := rfl
@[simp] theorem setKey_draws (s : State) (k : Fin 16) (p : Bool) : (setKey s k p).draws = s.draws := rfl

@[simp] theorem clearDirty_v (s : State) : (clearDirty s).v = s.v := rfl
@[simp] theorem clearDirty_i (s : State) : (clearDirty s).i = s.i := rfl
@[simp] theorem clearDirty_pc (s : State) : (clearDirty s).pc = s.pc := rfl
@[simp] theorem clearDirty_stack (s : State) : (clearDirty s).stack = s.stack := rfl
@[simp] theorem clearDirty_sp (s : State) : (clearDirty s).sp = s.sp := rfl
@[simp] theorem clearDirty_dt (s : State) : (clearDirty s).dt = s.dt := rfl
@[simp] theorem clearDirty_st (s : State) : (clearDirty s).st = s.st := rfl
@[simp] theorem clearDirty_key (s : State) : (clearDirty s).key = s.key := rfl
@[simp] theorem clearDirty_fb (s : State) : (clearDirty s).fb = s.fb := rfl
@[simp] theorem clearDirty_dirty (s : State) : (clearDirty s).dirty = false := rfl
@[simp] theorem clearDirty_mode (s : State) : (clearDirty s).mode = s.mode := rfl
@[simp] theorem clearDirty_waitReg (s : State) : (clearDirty s).waitReg = s.waitReg := rfl
@[simp] theorem clearDirty_mem (s : State) : (clearDirty s).mem = s.mem := rfl
@[simp] theorem clearDirty_draws (s : State) : (clearDirty s).draws = s.draws := rfl

end Sys2Proof.Machine
end

