-- ==== Sys2Proof/Laws/Ops.lean ====
section
/-! SUPPORT. One lemma for each shared operation that says everything it can do: later proofs cite these and never unfold
the operation. -/

namespace Sys2Proof.Machine

/-! ## Registers -/

theorem State.reg_setReg (s : State) (r : Reg) (b : Byte) (q : Reg) :
    (s.setReg r b).reg q = if q = r then b else s.reg q := by
  simp only [State.reg, State.setReg, Fin.getElem_fin, Vector.getElem_set]
  by_cases h : q = r
  · simp [h]
  · have : r.val ≠ q.val := fun e => h (Fin.ext e.symm)
    simp [h, this]

/-- A register reads the same in two states whose register files are the same. -/
theorem State.reg_congr {s t : State} (h : t.v = s.v) (r : Reg) : t.reg r = s.reg r := by
  simp [State.reg, h]

@[simp] theorem State.reg_setIndex (s : State) (w : Word) (q : Reg) : (s.setIndex w).reg q = s.reg q := rfl
@[simp] theorem State.reg_setDelay (s : State) (b : Byte) (q : Reg) : (s.setDelay b).reg q = s.reg q := rfl
@[simp] theorem State.reg_setSound (s : State) (b : Byte) (q : Reg) : (s.setSound b).reg q = s.reg q := rfl
@[simp] theorem State.reg_setPc (s : State) (w : Word) (q : Reg) : (s.setPc w).reg q = s.reg q := rfl
@[simp] theorem State.reg_advance (s : State) (q : Reg) : s.advance.reg q = s.reg q := rfl
@[simp] theorem State.reg_skipIf (s : State) (c : Bool) (q : Reg) : (s.skipIf c).reg q = s.reg q := rfl
@[simp] theorem State.reg_paint (s : State) (fb : Framebuffer) (q : Reg) : (s.paint fb).reg q = s.reg q := rfl

theorem State.reg_setFlag (s : State) (f : Bool) (q : Reg) :
    (s.setFlag f).reg q = if q = Reg.flag then flagByte f else s.reg q := State.reg_setReg s Reg.flag (flagByte f) q

/-- The result and the flag: VF holds the flag, whatever `X` is; otherwise `V[X]` holds the result. -/
theorem State.reg_setResultAndFlag (s : State) (x : Reg) (b : Byte) (f : Bool) (q : Reg) :
    (s.setResultAndFlag x b f).reg q = if q = Reg.flag then flagByte f else if q = x then b else s.reg q := by
  rw [State.setResultAndFlag, State.reg_setFlag, State.reg_setReg]

theorem flagByte_eq_zero_or_one (f : Bool) : flagByte f = 0 ∨ flagByte f = 1 := by cases f <;> simp [flagByte]

/-- Loading a run of registers from `V[k]` on: register `k + j` gets byte `j`, the others are unchanged. -/
theorem State.reg_setRegs (s : State) (k : Nat) (bytes : List Byte) (hk : k + bytes.length ≤ 16) (q : Reg) :
    (s.setRegs k bytes).reg q =
      if k ≤ q.val ∧ q.val < k + bytes.length then bytes.getD (q.val - k) 0 else s.reg q := by
  induction bytes generalizing s k with
  | nil => simp [State.setRegs]
  | cons b bs ih =>
    rw [List.length_cons] at hk
    rw [State.setRegs, ih _ _ (by omega), State.reg_setReg, List.length_cons]
    have hq : (q = Fin.ofNat 16 k) ↔ q.val = k := by
      rw [Fin.ext_iff, Fin.val_ofNat, Nat.mod_eq_of_lt (by omega)]
    by_cases h1 : q.val = k
    · rw [if_neg (by omega), if_pos (hq.2 h1), if_pos (by omega), h1, Nat.sub_self]
      simp
    · by_cases h2 : k + 1 ≤ q.val ∧ q.val < k + 1 + bs.length
      · rw [if_pos h2, if_pos (by omega), show q.val - k = (q.val - (k + 1)) + 1 by omega, List.getD_cons_succ]
      · rw [if_neg h2, if_neg (fun e => h1 (hq.1 e)), if_neg (by omega)]

/-- Loading registers changes the register file alone. -/
theorem State.setRegs_eq (s : State) (k : Nat) (bytes : List Byte) :
    s.setRegs k bytes = { s with v := (s.setRegs k bytes).v } := by
  induction bytes generalizing s k with
  | nil => rfl
  | cons b bs ih =>
    rw [State.setRegs, ih]
    rfl

@[simp] theorem State.regList_length (s : State) (n : Nat) : (s.regList n).length = n := by simp [State.regList]

theorem State.regList_getD (s : State) (n k : Nat) (h : k < n) : (s.regList n).getD k 0 = s.reg (Fin.ofNat 16 k) := by
  simp [State.regList, h]

/-! ## Raising -/

@[simp] theorem orRaise_ok {α : Type} (a : α) (k : α → Result) : orRaise (.ok a) k = k a := rfl
@[simp] theorem orRaise_error {α : Type} (f : Fault) (k : α → Result) : orRaise (.error f) k = .fault f := rfl

theorem orRaise_eq_next {α : Type} {r : Except Fault α} {k : α → Result} {t : State} :
    orRaise r k = .next t ↔ ∃ a, r = .ok a ∧ k a = .next t := by
  cases r <;> simp

theorem orRaise_eq_fault {α : Type} {r : Except Fault α} {k : α → Result} {f : Fault} :
    orRaise r k = .fault f ↔ r = .error f ∨ ∃ a, r = .ok a ∧ k a = .fault f := by
  cases r <;> simp

theorem orRaise_eq_refused {α : Type} {r : Except Fault α} {k : α → Result} {q : Refusal} :
    orRaise r k = .refused q ↔ ∃ a, r = .ok a ∧ k a = .refused q := by
  cases r <;> simp

/-! ## Memory -/

theorem accessInRange_iff (addr : Word) (n : Nat) :
    accessInRange addr n = true ↔ n = 0 ∨ addr.toNat + n ≤ 4096 := by
  rw [accessInRange, Bool.or_eq_true, beq_iff_eq, decide_eq_true_iff, Config.addrMax]
  omega

theorem memRead_ok {s : State} {addr : Word} {n : Nat} (h : n = 0 ∨ addr.toNat + n ≤ 4096) :
    memRead s addr n = .ok (s.mem.readBytes addr.toNat n) := by
  rw [memRead, if_pos ((accessInRange_iff addr n).2 h)]

theorem memRead_error {s : State} {addr : Word} {n : Nat} (h : ¬(n = 0 ∨ addr.toNat + n ≤ 4096)) :
    memRead s addr n = .error (.addressOutOfRange (.data addr)) := by
  rw [memRead, if_neg fun hr => h ((accessInRange_iff addr n).1 hr)]

theorem memWrite_ok {s : State} {addr : Word} {bytes : List Byte}
    (h : bytes.length = 0 ∨ addr.toNat + bytes.length ≤ 4096) :
    memWrite s addr bytes = .ok { s with mem := s.mem.writeBytes addr.toNat bytes } := by
  rw [memWrite, if_pos ((accessInRange_iff addr _).2 h)]

theorem memWrite_error {s : State} {addr : Word} {bytes : List Byte}
    (h : ¬(bytes.length = 0 ∨ addr.toNat + bytes.length ≤ 4096)) :
    memWrite s addr bytes = .error (.addressOutOfRange (.data addr)) := by
  rw [memWrite, if_neg fun hr => h ((accessInRange_iff addr _).1 hr)]

/-! ## The call stack -/

theorem pushStack_ok {s : State} (w : Word) (h : s.sp.val < 16) :
    pushStack s w = .ok { s with stack := s.stack.set s.sp.val w, sp := ⟨s.sp.val + 1, by omega⟩ } := by
  rw [pushStack, dif_pos h]

theorem pushStack_error {s : State} (w : Word) (h : ¬s.sp.val < 16) :
    pushStack s w = .error (.stackOverflow s.pc) := by
  rw [pushStack, dif_neg h]

theorem popStack_ok {s : State} (h : 0 < s.sp.val) :
    popStack s = .ok (s.stack[s.sp.val - 1], { s with sp := ⟨s.sp.val - 1, by omega⟩ }) := by
  rw [popStack, dif_pos h]

theorem popStack_error {s : State} (h : ¬0 < s.sp.val) : popStack s = .error (.stackUnderflow s.pc) := by
  rw [popStack, dif_neg h]

/-! ## Keys -/

theorem keyIndex_ok {s : State} {x : Reg} (h : (s.reg x).toNat < 16) :
    keyIndex s x = .ok ⟨(s.reg x).toNat, h⟩ := by
  rw [keyIndex, dif_pos h]

theorem keyIndex_error {s : State} {x : Reg} (h : ¬(s.reg x).toNat < 16) :
    keyIndex s x = .error (.addressOutOfRange (.key (s.reg x))) := by
  rw [keyIndex, dif_neg h]

theorem lowestPressed_eq_none {s : State} : lowestPressed s = none ↔ ∀ k : Fin 16, s.key[k] = false := by
  simp [lowestPressed, State.pressed]

theorem lowestPressed_eq_some {s : State} {k : Fin 16} :
    lowestPressed s = some k ↔ s.key[k] = true ∧ ∀ j : Fin 16, j < k → s.key[j] = false := by
  constructor
  · intro h
    have hk := List.find?_some h
    refine ⟨hk, fun j hj => ?_⟩
    rw [lowestPressed, List.find?_eq_some_iff_getElem] at h
    obtain ⟨_, n, hn, hnk, hb⟩ := h
    have hnv : n = k.val := by
      have := congrArg Fin.val hnk
      simpa using this
    have := hb j.val (by omega)
    simpa [State.pressed] using this
  · rintro ⟨hk, hb⟩
    rw [lowestPressed, List.find?_eq_some_iff_getElem]
    refine ⟨hk, k.val, by simp, by simp, fun j hj => ?_⟩
    have := hb ⟨j, by omega⟩ hj
    simpa [State.pressed] using this

/-! ## The fetch -/

theorem fetch_ok {s : State} (h : s.pc.toNat ≤ Config.fetchMax) : fetch s = .ok (fetchWord s) := by
  rw [fetch, if_pos h]

theorem fetch_error {s : State} (h : ¬s.pc.toNat ≤ Config.fetchMax) :
    fetch s = .error (.addressOutOfRange (.fetch s.pc)) := by
  rw [fetch, if_neg h]

/-! ## The framebuffer -/

theorem Framebuffer.pixel_blank (y : Fin 32) (x : Fin 64) : Framebuffer.blank.pixel y x = false := by
  simp [Framebuffer.blank, Framebuffer.pixel]

theorem Framebuffer.pixel_toggle (fb : Framebuffer) (y : Fin 32) (x : Fin 64) (y' : Fin 32) (x' : Fin 64) :
    (fb.toggle y x).pixel y' x' = if y' = y ∧ x' = x then !fb.pixel y x else fb.pixel y' x' := by
  simp only [Framebuffer.pixel, Framebuffer.toggle, Fin.getElem_fin, Vector.getElem_set]
  by_cases hy : y' = y
  · subst hy
    by_cases hx : x' = x
    · simp [hx]
    · have : x.val ≠ x'.val := fun e => hx (Fin.ext e.symm)
      simp [hx, this]
  · have : y.val ≠ y'.val := fun e => hy (Fin.ext e.symm)
    simp [hy, this]

/-- Framebuffers with the same cells are equal. -/
theorem Framebuffer.ext_pixel {fb fb' : Framebuffer} (h : ∀ y x, fb.pixel y x = fb'.pixel y x) : fb = fb' := by
  apply Vector.ext
  intro y hy
  apply Vector.ext
  intro x hx
  simpa [Framebuffer.pixel] using h ⟨y, hy⟩ ⟨x, hx⟩

end Sys2Proof.Machine
end

