-- ==== Sys2Proof/Laws/Display.lean ====
section
/-! SUPPORT. What the sprite blit does (44_display.md R161, R163): no two bits of a sprite land on the same cell, so a
cell is toggled exactly when some 1 bit lands on it, and a hit is noted exactly when such a cell was set before. -/

namespace Sys2Proof.Machine

/-- Two columns of a sprite are distinct modulo 64. -/
theorem spriteColumn_inj {x0 : Byte} {c c' : Nat} (h : c < 64) (h' : c' < 64) :
    spriteColumn x0 c = spriteColumn x0 c' ↔ c = c' := by
  simp only [spriteColumn, Fin.ext_iff, Fin.val_ofNat]
  omega

/-- Two rows of a sprite are distinct modulo 32. -/
theorem spriteRow_inj {y0 : Byte} {r r' : Nat} (h : r < 32) (h' : r' < 32) :
    spriteRow y0 r = spriteRow y0 r' ↔ r = r' := by
  simp only [spriteRow, Fin.ext_iff, Fin.val_ofNat]
  omega

/-- The columns of `cols` blitted one after another: `bit c` says whether column `c` of the sprite row is 1. -/
theorem blitColumns_spec (x0 y0 : Byte) (row : Nat) (bit : Nat → Bool) (cols : List Nat) (hnd : cols.Nodup)
    (hlt : ∀ c ∈ cols, c < 64) (acc : Framebuffer × Bool) :
    let out := cols.foldl (fun a c => if bit c then blitBit x0 y0 row c a else a) acc
    (∀ y x, out.1.pixel y x =
      if y = spriteRow y0 row ∧ ∃ c ∈ cols, bit c = true ∧ x = spriteColumn x0 c then !acc.1.pixel y x
      else acc.1.pixel y x) ∧
    (out.2 = true ↔ acc.2 = true ∨
      ∃ c ∈ cols, bit c = true ∧ acc.1.pixel (spriteRow y0 row) (spriteColumn x0 c) = true) := by
  induction cols generalizing acc with
  | nil => simp
  | cons d cols ih =>
    obtain ⟨hd, hnd⟩ := List.nodup_cons.1 hnd
    have hltd : d < 64 := hlt d (by simp)
    have hlt' : ∀ c ∈ cols, c < 64 := fun c hc => hlt c (by simp [hc])
    have hne : ∀ c ∈ cols, spriteColumn x0 c ≠ spriteColumn x0 d := fun c hc e =>
      hd (((spriteColumn_inj (hlt' c hc) hltd).1 e) ▸ hc)
    rw [List.foldl_cons]
    by_cases hb : bit d = true
    · obtain ⟨ihp, ihh⟩ := ih hnd hlt' (blitBit x0 y0 row d acc)
      simp only [hb, if_true]
      constructor
      · intro y x
        rw [ihp y x, blitBit, Framebuffer.pixel_toggle]
        by_cases hy : y = spriteRow y0 row
        · by_cases hx : x = spriteColumn x0 d
          · have hno : ¬∃ c ∈ cols, bit c = true ∧ x = spriteColumn x0 c := by
              rintro ⟨c, hc, _, e⟩
              exact hne c hc (e ▸ hx)
            rw [if_neg (fun h => hno h.2), if_pos ⟨hy, hx⟩, if_pos ⟨hy, d, by simp, hb, hx⟩, hy, hx]
          · simp [hy, hx, hb]
        · simp [hy]
      · rw [ihh]
        have hother : ∀ c ∈ cols, (blitBit x0 y0 row d acc).1.pixel (spriteRow y0 row) (spriteColumn x0 c) =
            acc.1.pixel (spriteRow y0 row) (spriteColumn x0 c) := fun c hc => by
          rw [blitBit, Framebuffer.pixel_toggle, if_neg fun h => hne c hc h.2]
        constructor
        · rintro (h | ⟨c, hc, hbc, hp⟩)
          · rw [blitBit, Bool.or_eq_true] at h
            rcases h with h | h
            · exact .inl h
            · exact .inr ⟨d, by simp, hb, h⟩
          · rw [hother c hc] at hp
            exact .inr ⟨c, by simp [hc], hbc, hp⟩
        · rintro (h | ⟨c, hc, hbc, hp⟩)
          · exact .inl (by simp [blitBit, h])
          · rcases List.mem_cons.1 hc with rfl | hc
            · exact .inl (by simp [blitBit, hp])
            · exact .inr ⟨c, hc, hbc, by rw [hother c hc]; exact hp⟩
    · obtain ⟨ihp, ihh⟩ := ih hnd hlt' acc
      simp only [hb, if_false, Bool.false_eq_true]
      constructor
      · intro y x
        rw [ihp y x]
        simp [hb]
      · rw [ihh]
        simp [hb]

/-- One sprite row: column `c` of it is bit `7 - c`. -/
theorem blitRow_spec (x0 y0 : Byte) (row : Nat) (bits : Byte) (acc : Framebuffer × Bool) :
    (∀ y x, (blitRow x0 y0 row bits acc).1.pixel y x =
      if y = spriteRow y0 row ∧ ∃ c ∈ List.range 8, bits.getLsbD (7 - c) = true ∧ x = spriteColumn x0 c then !acc.1.pixel y x
      else acc.1.pixel y x) ∧
    ((blitRow x0 y0 row bits acc).2 = true ↔ acc.2 = true ∨
      ∃ c ∈ List.range 8, bits.getLsbD (7 - c) = true ∧ acc.1.pixel (spriteRow y0 row) (spriteColumn x0 c) = true) := by
  have h := blitColumns_spec x0 y0 row (fun c => bits.getLsbD (7 - c)) (List.range 8) List.nodup_range
    (fun c hc => by have := List.mem_range.1 hc; omega) acc
  exact h

/-- A 1 bit of the sprite rows, the first of which is row `row`, lands on the cell in column `x` and row `y`. -/
def Covered (x0 y0 : Byte) (row : Nat) (rows : List Byte) (y : Fin 32) (x : Fin 64) : Prop :=
  ∃ r < rows.length, ∃ c < 8,
    (rows.getD r 0).getLsbD (7 - c) = true ∧ y = spriteRow y0 (row + r) ∧ x = spriteColumn x0 c

theorem covered_cons (x0 y0 : Byte) (row : Nat) (bits : Byte) (rows : List Byte) (y : Fin 32) (x : Fin 64) :
    Covered x0 y0 row (bits :: rows) y x ↔
      (y = spriteRow y0 row ∧ ∃ c ∈ List.range 8, bits.getLsbD (7 - c) = true ∧ x = spriteColumn x0 c) ∨
      Covered x0 y0 (row + 1) rows y x := by
  constructor
  · rintro ⟨r, hr, c, hc, hb, hy, hx⟩
    cases r with
    | zero => exact .inl ⟨hy, c, List.mem_range.2 hc, by simpa using hb, hx⟩
    | succ r =>
      refine .inr ⟨r, by simpa using hr, c, hc, by simpa using hb, ?_, hx⟩
      rw [hy]
      congr 1
      omega
  · rintro (⟨hy, c, hc, hb, hx⟩ | ⟨r, hr, c, hc, hb, hy, hx⟩)
    · exact ⟨0, by simp, c, List.mem_range.1 hc, by simpa using hb, hy, hx⟩
    · refine ⟨r + 1, by simpa using hr, c, hc, by simpa using hb, ?_, hx⟩
      rw [hy]
      congr 1
      omega

/-- The whole sprite: the covered cells are toggled, the others are unchanged, and a hit is noted exactly when a covered
cell was set before. -/
theorem blitRows_spec (x0 y0 : Byte) (row : Nat) (rows : List Byte) (hr : row + rows.length ≤ 32)
    (acc : Framebuffer × Bool) :
    (∀ y x, (Covered x0 y0 row rows y x → (blitRows x0 y0 row rows acc).1.pixel y x = !acc.1.pixel y x) ∧
      (¬Covered x0 y0 row rows y x → (blitRows x0 y0 row rows acc).1.pixel y x = acc.1.pixel y x)) ∧
    ((blitRows x0 y0 row rows acc).2 = true ↔
      acc.2 = true ∨ ∃ y x, Covered x0 y0 row rows y x ∧ acc.1.pixel y x = true) := by
  induction rows generalizing row acc with
  | nil => simp [blitRows, Covered]
  | cons bits rows ih =>
    rw [List.length_cons] at hr
    obtain ⟨ihp, ihh⟩ := ih (row + 1) (by omega) (blitRow x0 y0 row bits acc)
    obtain ⟨rp, rh⟩ := blitRow_spec x0 y0 row bits acc
    have hsep : ∀ y x, Covered x0 y0 (row + 1) rows y x → y ≠ spriteRow y0 row := by
      rintro y x ⟨r, hrl, c, hc, hb, hy, hx⟩ e
      rw [hy, spriteRow_inj (by omega) (by omega)] at e
      omega
    have hsame : ∀ y x, Covered x0 y0 (row + 1) rows y x →
        (blitRow x0 y0 row bits acc).1.pixel y x = acc.1.pixel y x := fun y x h => by
      rw [rp, if_neg fun e => hsep y x h e.1]
    rw [blitRows]
    constructor
    · intro y x
      rw [covered_cons]
      constructor
      · rintro (h | h)
        · have hn : ¬Covered x0 y0 (row + 1) rows y x := fun h' => hsep y x h' h.1
          rw [(ihp y x).2 hn, rp, if_pos h]
        · rw [(ihp y x).1 h, hsame y x h]
      · intro h
        rw [(ihp y x).2 fun h' => h (.inr h'), rp, if_neg fun h' => h (.inl h')]
    · rw [ihh, rh]
      constructor
      · rintro ((h | ⟨c, hc, hb, hp⟩) | ⟨y, x, hcov, hp⟩)
        · exact .inl h
        · exact .inr ⟨_, _, (covered_cons ..).2 (.inl ⟨rfl, c, hc, hb, rfl⟩), hp⟩
        · exact .inr ⟨y, x, (covered_cons ..).2 (.inr hcov), by rw [← hsame y x hcov]; exact hp⟩
      · rintro (h | ⟨y, x, hcov, hp⟩)
        · exact .inl (.inl h)
        · rcases (covered_cons ..).1 hcov with ⟨hy, c, hc, hb, hx⟩ | h
          · exact .inl (.inr ⟨c, hc, hb, by rw [← hy, ← hx]; exact hp⟩)
          · exact .inr ⟨y, x, h, by rw [hsame y x h]; exact hp⟩

end Sys2Proof.Machine
end

