-- ==== Sys2Proof/Laws/Events.lean ====
section
/-! SUPPORT. What the host receives from a step or a construction, by its outcome: the state, the reply, its code. -/

namespace Sys2Proof.Machine

@[simp] theorem settle_next (s t : State) (o : List Output) : settle s (.next t) o = ⟨t, .ok, o⟩ := rfl
@[simp] theorem settle_fault (s : State) (f : Fault) (o : List Output) : settle s (.fault f) o = ⟨s, .error f, []⟩ := rfl

/-- A program that fits: every field but memory and the draw count is as in `State.reset`. -/
theorem construct_ok (glyphs : Vector Byte 80) {rom : List Byte} (draws : Nat) (h : rom.length ≤ Config.romMax) :
    construct glyphs rom draws = .next { State.reset with
      mem := Memory.writeBytes (Memory.writeBytes [] 0 glyphs.toList) Config.progBase rom, draws := draws } := by
  rw [construct, if_pos h]

/-- A program that does not fit. -/
theorem construct_error (glyphs : Vector Byte 80) {rom : List Byte} (draws : Nat) (h : ¬rom.length ≤ Config.romMax) :
    construct glyphs rom draws = .fault (.romTooLarge rom.length) := by
  rw [construct, if_neg h, raise]

@[simp] theorem Reply.code_ok : Reply.ok.code = some 0 := rfl
@[simp] theorem Reply.code_error (f : Fault) : (Reply.error f).code = some f.code := rfl
@[simp] theorem Output.code_unknownOpcode (w a : Word) : (Output.unknownOpcode w a).code = some 5 := rfl

/-- A step and a construction report an error under a code that is not 0. -/
theorem Fault.code_ne_zero (f : Fault) : f.code ≠ 0 := by cases f <;> simp [Fault.code]

/-- A step emits no beep: its pulses carry the code of the unknown opcode. -/
theorem code_of_mem_instrOutputs {i : Instr} {pc : Word} {p : Output} (h : p ∈ instrOutputs i pc) : p.code = some 5 := by
  cases i <;> simp_all [instrOutputs]

end Sys2Proof.Machine
end

