-- ==== Sys2Proof/Laws/PerInstr.lean ====
section
/-! SUPPORT. Per instruction: its word selects its own row of the opcode table (30_encoding.md R62, R64), and the word of
the fallback selects none (R66). -/

namespace Sys2Proof.Laws.RowMatch

/-- The word of a well-formed instruction selects the instruction's row, or no row for the fallback. -/
def Statement (i : Instr) : Prop :=
  i.wf = true →
    match i.row with
    | some r => r.selects (encode i) = true
    | none => isUnknownWord (encode i) = true

theorem clear : Statement .clear := fun _ => show (OpcodeRow.mk 0x00E0 0xFFFF).selects 0x00E0 = true by decide

theorem ret : Statement .ret := fun _ => show (OpcodeRow.mk 0x00EE 0xFFFF).selects 0x00EE = true by decide

theorem jump (nnn : Addr) : Statement (.jump nnn) := fun _ =>
  selects_F000 (op := 0x1) (fieldOp_encodeNNN (by decide) nnn)

theorem call (nnn : Addr) : Statement (.call nnn) := fun _ =>
  selects_F000 (op := 0x2) (fieldOp_encodeNNN (by decide) nnn)

theorem setIndex (nnn : Addr) : Statement (.setIndex nnn) := fun _ =>
  selects_F000 (op := 0xa) (fieldOp_encodeNNN (by decide) nnn)

theorem jumpOffset (nnn : Addr) : Statement (.jumpOffset nnn) := fun _ =>
  selects_F000 (op := 0xb) (fieldOp_encodeNNN (by decide) nnn)

theorem skipEqLit (x : Reg) (nn : Byte) : Statement (.skipEqLit x nn) := fun _ =>
  selects_F000 (op := 0x3) (fieldOp_encodeXNN (by decide) x nn)

theorem skipNeLit (x : Reg) (nn : Byte) : Statement (.skipNeLit x nn) := fun _ =>
  selects_F000 (op := 0x4) (fieldOp_encodeXNN (by decide) x nn)

theorem setLit (x : Reg) (nn : Byte) : Statement (.setLit x nn) := fun _ =>
  selects_F000 (op := 0x6) (fieldOp_encodeXNN (by decide) x nn)

theorem addLit (x : Reg) (nn : Byte) : Statement (.addLit x nn) := fun _ =>
  selects_F000 (op := 0x7) (fieldOp_encodeXNN (by decide) x nn)

theorem random (x : Reg) (nn : Byte) : Statement (.random x nn) := fun _ =>
  selects_F000 (op := 0xc) (fieldOp_encodeXNN (by decide) x nn)

theorem skipEqReg (x y : Reg) : Statement (.skipEqReg x y) := fun _ =>
  selects_F00F (op := 0x5) (fieldOp_encodeXYN (by decide) x y _) (fieldN_encodeXYN (by decide) x y _)

theorem assign (x y : Reg) : Statement (.assign x y) := fun _ =>
  selects_F00F (op := 0x8) (fieldOp_encodeXYN (by decide) x y _) (fieldN_encodeXYN (by decide) x y _)

theorem orReg (x y : Reg) : Statement (.orReg x y) := fun _ =>
  selects_F00F (op := 0x8) (fieldOp_encodeXYN (by decide) x y _) (fieldN_encodeXYN (by decide) x y _)

theorem andReg (x y : Reg) : Statement (.andReg x y) := fun _ =>
  selects_F00F (op := 0x8) (fieldOp_encodeXYN (by decide) x y _) (fieldN_encodeXYN (by decide) x y _)

theorem xorReg (x y : Reg) : Statement (.xorReg x y) := fun _ =>
  selects_F00F (op := 0x8) (fieldOp_encodeXYN (by decide) x y _) (fieldN_encodeXYN (by decide) x y _)

theorem addReg (x y : Reg) : Statement (.addReg x y) := fun _ =>
  selects_F00F (op := 0x8) (fieldOp_encodeXYN (by decide) x y _) (fieldN_encodeXYN (by decide) x y _)

theorem subReg (x y : Reg) : Statement (.subReg x y) := fun _ =>
  selects_F00F (op := 0x8) (fieldOp_encodeXYN (by decide) x y _) (fieldN_encodeXYN (by decide) x y _)

theorem shiftRight (x y : Reg) : Statement (.shiftRight x y) := fun _ =>
  selects_F00F (op := 0x8) (fieldOp_encodeXYN (by decide) x y _) (fieldN_encodeXYN (by decide) x y _)

theorem subRev (x y : Reg) : Statement (.subRev x y) := fun _ =>
  selects_F00F (op := 0x8) (fieldOp_encodeXYN (by decide) x y _) (fieldN_encodeXYN (by decide) x y _)

theorem shiftLeft (x y : Reg) : Statement (.shiftLeft x y) := fun _ =>
  selects_F00F (op := 0x8) (fieldOp_encodeXYN (by decide) x y _) (fieldN_encodeXYN (by decide) x y _)

theorem skipNeReg (x y : Reg) : Statement (.skipNeReg x y) := fun _ =>
  selects_F00F (op := 0x9) (fieldOp_encodeXYN (by decide) x y _) (fieldN_encodeXYN (by decide) x y _)

theorem draw (x y : Reg) (n : Nibble) : Statement (.draw x y n) := fun _ =>
  selects_F000 (op := 0xd) (fieldOp_encodeXYN (by decide) x y n)

theorem skipKey (x : Reg) : Statement (.skipKey x) := fun _ =>
  selects_F0FF (op := 0xe) (fieldOp_encodeXNN (by decide) x _) (fieldNN_encodeXNN (by decide) x _)

theorem skipNokey (x : Reg) : Statement (.skipNokey x) := fun _ =>
  selects_F0FF (op := 0xe) (fieldOp_encodeXNN (by decide) x _) (fieldNN_encodeXNN (by decide) x _)

theorem getDelay (x : Reg) : Statement (.getDelay x) := fun _ =>
  selects_F0FF (op := 0xf) (fieldOp_encodeXNN (by decide) x _) (fieldNN_encodeXNN (by decide) x _)

theorem waitKey (x : Reg) : Statement (.waitKey x) := fun _ =>
  selects_F0FF (op := 0xf) (fieldOp_encodeXNN (by decide) x _) (fieldNN_encodeXNN (by decide) x _)

theorem setDelay (x : Reg) : Statement (.setDelay x) := fun _ =>
  selects_F0FF (op := 0xf) (fieldOp_encodeXNN (by decide) x _) (fieldNN_encodeXNN (by decide) x _)

theorem setSound (x : Reg) : Statement (.setSound x) := fun _ =>
  selects_F0FF (op := 0xf) (fieldOp_encodeXNN (by decide) x _) (fieldNN_encodeXNN (by decide) x _)

theorem addIndex (x : Reg) : Statement (.addIndex x) := fun _ =>
  selects_F0FF (op := 0xf) (fieldOp_encodeXNN (by decide) x _) (fieldNN_encodeXNN (by decide) x _)

theorem glyphAddr (x : Reg) : Statement (.glyphAddr x) := fun _ =>
  selects_F0FF (op := 0xf) (fieldOp_encodeXNN (by decide) x _) (fieldNN_encodeXNN (by decide) x _)

theorem bcd (x : Reg) : Statement (.bcd x) := fun _ =>
  selects_F0FF (op := 0xf) (fieldOp_encodeXNN (by decide) x _) (fieldNN_encodeXNN (by decide) x _)

theorem regDump (x : Reg) : Statement (.regDump x) := fun _ =>
  selects_F0FF (op := 0xf) (fieldOp_encodeXNN (by decide) x _) (fieldNN_encodeXNN (by decide) x _)

theorem regLoad (x : Reg) : Statement (.regLoad x) := fun _ =>
  selects_F0FF (op := 0xf) (fieldOp_encodeXNN (by decide) x _) (fieldNN_encodeXNN (by decide) x _)

theorem unknown (w : Word) : Statement (.unknown w) := fun h => h

end Sys2Proof.Laws.RowMatch
end

