-- ==== Sys2Proof/Laws/Step.lean ====
section
/-! SUPPORT. What one step can be, by the mode and PC alone, and the small lemmas of a random draw and of the poll. -/

namespace Sys2Proof.Machine

/-! ## The three shapes of a step -/

/-- A running machine that can fetch executes the instruction its word decodes to. -/
theorem step_running {s : State} (hm : s.mode = .running) (hp : s.pc.toNat ≤ Config.fetchMax) :
    step s = exec (decode (fetchWord s)) s := by
  simp only [step, hm, fetch_ok hp, orRaise_ok]

/-- A running machine whose PC is beyond the last address a fetch succeeds at. -/
theorem step_beyond {s : State} (hm : s.mode = .running) (hp : ¬s.pc.toNat ≤ Config.fetchMax) :
    step s = .fault (.addressOutOfRange (.fetch s.pc)) := by
  simp only [step, hm, fetch_error hp, orRaise_error]

/-- A waiting machine polls. -/
theorem step_waiting {s : State} (hm : s.mode = .awaitingKey) : step s = .next (poll s) := by
  simp only [step, hm]

/-! ## The poll -/

theorem poll_of_none {s : State} (h : lowestPressed s = none) : poll s = s := by
  simp only [poll, h]

theorem poll_of_some {s : State} {k : Fin 16} (h : lowestPressed s = some k) :
    poll s = { (s.setReg s.waitReg (BitVec.ofNat 8 k.val)).advance with mode := .running } := by
  simp only [poll, h]

/-! ## A random draw -/

@[simp] theorem drawByte_byte (s : State) : (drawByte s).1 = Config.randomByte s.draws := rfl
@[simp] theorem drawByte_reg (s : State) (r : Reg) : (drawByte s).2.reg r = s.reg r := rfl
@[simp] theorem drawByte_pc (s : State) : (drawByte s).2.pc = s.pc := rfl
@[simp] theorem drawByte_mode (s : State) : (drawByte s).2.mode = s.mode := rfl
@[simp] theorem drawByte_mem (s : State) : (drawByte s).2.mem = s.mem := rfl
@[simp] theorem drawByte_draws (s : State) : (drawByte s).2.draws = s.draws + 1 := rfl

end Sys2Proof.Machine
end

