-- ==== Sys2Proof/Tests/Slice0.lean ====
section
/-! SUPPORT. The model's own tests. Expected results are those of spec/95_test_vectors.md (T<n>, S<n>) or worked by hand
from the rule named; the words are written out from the patterns of 30_encoding.md R64. At the end, one or more states for
each obligation that has hypotheses, meeting them at the ends of their ranges. -/

open Sys2Proof Sys2Proof.Machine

namespace Sys2Proof.Tests

/-! ## Helpers -/

/-- One step of the word `w` at 0x200 in the state that `pre` makes of reset. -/
def stepOf (pre : State → State) (w : Nat) : Result := step ((pre State.reset).withFetchWord 16 w)

/-- Registers set one after the other. -/
def regs (l : List (Reg × Byte)) (s : State) : State := l.foldl (fun s p => s.setReg p.1 p.2) s

/-- `V0..VF = A0..AF` (T136). -/
def regsA0 (s : State) : State := { s with v := Vector.ofFn fun k : Fin 16 => BitVec.ofNat 8 (0xA0 + k.val) }

/-- Bytes put in memory. -/
def poke (a : Nat) (bytes : List Byte) (s : State) : State := { s with mem := s.mem.writeBytes a bytes }

/-- Cells of the framebuffer set, as (x,y). -/
def plot (l : List (Fin 64 × Fin 32)) (s : State) : State :=
  { s with fb := l.foldl (fun fb p => fb.toggle p.2 p.1) s.fb }

/-- A waiting machine with destination V3 and the keys of `l` pressed. -/
def waiting (l : List (Fin 16)) (s : State) : State :=
  { s with mode := .awaitingKey, waitReg := 3, key := l.foldl (fun (k : Vector Bool 16) (i : Fin 16) => k.set i true) s.key }

/-- The outcome is a next state with the property. -/
def nextIs (r : Result) (p : State → Bool) : Bool :=
  match r with
  | .next t => p t
  | .fault _ => false
  | .refused _ => false

/-- The outcome is the fault. -/
def faultIs (r : Result) (f : Fault) : Bool :=
  match r with
  | .next _ => false
  | .fault g => g == f
  | .refused _ => false

/-- V[x], VF and PC. -/
def xfp (x : Reg) (a f : Byte) (pc : Word) (t : State) : Bool := t.reg x == a && t.reg 15 == f && t.pc == pc

/-- The cells of `l`, as (x,y), are set. -/
def lit (l : List (Fin 64 × Fin 32)) (t : State) : Bool := l.all fun p => t.pixel p.2 p.1

/-- How many cells are set. -/
def litCount (t : State) : Nat := (t.fb.toList.map fun row => row.toList.countP id).sum

/-! ## Well-formedness: the fallback may carry only a word that selects no row (R66) -/

theorem test_wf_unknown_0000 : (Instr.unknown 0x0000).wf = true := by decide
theorem test_wf_refuses_unknown_00E0 : (Instr.unknown 0x00E0).wf = false := by decide
theorem test_wf_refuses_unknown_8127 : (Instr.unknown 0x8127).wf = false := by decide

/-! ## Decoding: the word of every constructor -/

theorem test_decode_control :
    decode 0x00EE = .ret ∧ decode 0x1ABC = .jump 0xABC ∧ decode 0x2300 = .call 0x300 ∧ decode 0xBFFF = .jumpOffset 0xFFF ∧
    decode 0x332A = .skipEqLit 3 0x2A ∧ decode 0x432A = .skipNeLit 3 0x2A ∧ decode 0x5120 = .skipEqReg 1 2 ∧
    decode 0x9120 = .skipNeReg 1 2 := by decide

theorem test_decode_alu :
    decode 0x6005 = .setLit 0 5 ∧ decode 0x7F03 = .addLit 15 3 ∧ decode 0x8120 = .assign 1 2 ∧ decode 0x8121 = .orReg 1 2 ∧
    decode 0x8122 = .andReg 1 2 ∧ decode 0x8123 = .xorReg 1 2 ∧ decode 0x8124 = .addReg 1 2 ∧ decode 0x8125 = .subReg 1 2 ∧
    decode 0x8126 = .shiftRight 1 2 ∧ decode 0x8127 = .subRev 1 2 ∧ decode 0x812E = .shiftLeft 1 2 ∧
    decode 0xC30F = .random 3 0x0F := by decide

theorem test_decode_index_display :
    decode 0xA300 = .setIndex 0x300 ∧ decode 0xF01E = .addIndex 0 ∧ decode 0xF429 = .glyphAddr 4 ∧ decode 0xF033 = .bcd 0 ∧
    decode 0xFF55 = .regDump 15 ∧ decode 0xF265 = .regLoad 2 ∧ decode 0x00E0 = .clear ∧ decode 0xD5A3 = .draw 5 10 3 := by
  decide

theorem test_decode_keypad_timers :
    decode 0xE29E = .skipKey 2 ∧ decode 0xE0A1 = .skipNokey 0 ∧ decode 0xF30A = .waitKey 3 ∧ decode 0xF307 = .getDelay 3 ∧
    decode 0xF315 = .setDelay 3 ∧ decode 0xF318 = .setSound 3 := by decide

/-- T1 to T5. -/
theorem test_decode_unknown :
    [0x0000, 0x5121, 0x8128, 0x812D, 0x812F, 0x9121, 0xE000, 0xE19F, 0xE1A0, 0xF000, 0xF108, 0xF1FF, 0x00E1, 0x00FE,
      0x0123].all (fun w => decode w == .unknown w) = true := by decide

/-- The fields of D5A3 (T-vectors, 2.1). -/
theorem test_fields : fieldOp 0xD5A3 = 0xD ∧ fieldX 0xD5A3 = 5 ∧ fieldY 0xD5A3 = 10 ∧ fieldN 0xD5A3 = 3 ∧
    fieldNN 0xD5A3 = 0xA3 ∧ fieldNNN 0xD5A3 = 0x5A3 := by decide

theorem test_decodeTableWord : decodeTableWord 16 0x8127 = some (.subRev 1 2) := by decide
theorem test_decodeBytes_high_first : decodeBytes [0x12, 0x34, 0x56] = .ok (.jump 0x234, [0x56]) := by rfl
theorem test_decodeBytes_too_few : decodeBytes [0x12] = .error .fewerThanTwoBytes := by rfl
theorem test_encode_subRev : encode (.subRev 1 2) = 0x8127 ∧ encodeBytes (.jump 0x234) = [0x12, 0x34] := by decide

/-! ## Control transfer -/

theorem test_jump_T20 : nextIs (stepOf id 0x1ABC) (fun t => t.pc == 0x0ABC) = true := by decide
theorem test_call_T24 : nextIs (stepOf (fun s => { s with sp := 15 }) 0x2300)
    (fun t => t.stack[15] == 0x0202 && t.sp == 16 && t.pc == 0x0300) = true := by decide
theorem test_call_T25 : faultIs (stepOf (fun s => { s with sp := 16 }) 0x2300) (.stackOverflow 0x200) = true := by decide
theorem test_ret_T26 : nextIs (stepOf (fun s => { s with sp := 1, stack := s.stack.set 0 0x0456 }) 0x00EE)
    (fun t => t.pc == 0x0456 && t.sp == 0 && t.stack[0] == 0x0456) = true := by decide
theorem test_ret_T27 : faultIs (stepOf id 0x00EE) (.stackUnderflow 0x200) = true := by decide
theorem test_jumpOffset_T29 : nextIs (stepOf (regs [(0, 0xFF)]) 0xBFFF) (fun t => t.pc == 0x10FE) = true := by decide
theorem test_skipEqLit_T31 : nextIs (stepOf (regs [(3, 0x2A)]) 0x332A) (fun t => t.pc == 0x0204) = true := by decide
theorem test_skipEqLit_T32 : nextIs (stepOf (regs [(3, 0x2B)]) 0x332A) (fun t => t.pc == 0x0202) = true := by decide
theorem test_skipNeLit_T33 : nextIs (stepOf (regs [(3, 0x2A)]) 0x432A) (fun t => t.pc == 0x0202) = true := by decide
theorem test_skipNeLit_T34 : nextIs (stepOf (regs [(3, 0x2B)]) 0x432A) (fun t => t.pc == 0x0204) = true := by decide
theorem test_skipEqReg_T35 : nextIs (stepOf (regs [(1, 7), (2, 7)]) 0x5120) (fun t => t.pc == 0x0204) = true := by decide
theorem test_skipEqReg_T36 : nextIs (stepOf (regs [(1, 7), (2, 8)]) 0x5120) (fun t => t.pc == 0x0202) = true := by decide
theorem test_skipNeReg_T38 : nextIs (stepOf (regs [(1, 7), (2, 8)]) 0x9120) (fun t => t.pc == 0x0204) = true := by decide
theorem test_skipNeReg_T39 : nextIs (stepOf (regs [(1, 7), (2, 7)]) 0x9120) (fun t => t.pc == 0x0202) = true := by decide

/-! ## Load, arithmetic, logic, shift, random -/

theorem test_setLit_T51 : nextIs (stepOf (regs [(15, 1)]) 0x6FAB) (xfp 15 0xAB 0xAB 0x0202) = true := by decide
theorem test_addLit_T53 : nextIs (stepOf (regs [(0, 0xFF)]) 0x7001) (xfp 0 0x00 0x00 0x0202) = true := by decide
theorem test_addLit_T56 : nextIs (stepOf (regs [(15, 0xFE)]) 0x7F03) (xfp 15 0x01 0x01 0x0202) = true := by decide
theorem test_assign_T60 : nextIs (stepOf (regs [(1, 0x11), (2, 0x22), (15, 0x55)]) 0x8120) (xfp 1 0x22 0x55 0x0202) = true := by
  decide
theorem test_or_T63 : nextIs (stepOf (regs [(1, 0xF0), (2, 0x0F), (15, 0x55)]) 0x8121) (xfp 1 0xFF 0x55 0x0202) = true := by
  decide
theorem test_and_T66 : nextIs (stepOf (regs [(1, 0xF0), (2, 0x3C), (15, 0x55)]) 0x8122) (xfp 1 0x30 0x55 0x0202) = true := by
  decide
theorem test_xor_T68 : nextIs (stepOf (regs [(1, 0xFF), (2, 0x0F), (15, 0x55)]) 0x8123) (xfp 1 0xF0 0x55 0x0202) = true := by
  decide
theorem test_addReg_T73 : nextIs (stepOf (regs [(1, 0x80), (2, 0x7F), (15, 1)]) 0x8124) (xfp 1 0xFF 0x00 0x0202) = true := by
  decide
theorem test_addReg_T77 : nextIs (stepOf (regs [(15, 0xC8), (2, 0x64)]) 0x8F24) (xfp 15 0x01 0x01 0x0202) = true := by decide
theorem test_subReg_T81 : nextIs (stepOf (regs [(1, 3), (2, 5), (15, 1)]) 0x8125) (xfp 1 0xFE 0x00 0x0202) = true := by decide
theorem test_subReg_T82 : nextIs (stepOf (regs [(1, 7), (2, 7)]) 0x8125) (xfp 1 0x00 0x01 0x0202) = true := by decide
theorem test_shiftRight_T89 : nextIs (stepOf (regs [(1, 5), (2, 0xEE)]) 0x8126)
    (fun t => xfp 1 0x02 0x01 0x0202 t && t.reg 2 == 0xEE) = true := by decide
theorem test_shiftRight_T96 : nextIs (stepOf (regs [(15, 2)]) 0x8F06) (xfp 15 0x00 0x00 0x0202) = true := by decide
theorem test_subRev_T97 : nextIs (stepOf (regs [(1, 3), (2, 5)]) 0x8127) (xfp 1 0x02 0x01 0x0202) = true := by decide
theorem test_subRev_T103 : nextIs (stepOf (regs [(15, 5), (2, 3)]) 0x8F27) (xfp 15 0x00 0x00 0x0202) = true := by decide
theorem test_shiftLeft_T104 : nextIs (stepOf (regs [(1, 0x81), (2, 0xEE)]) 0x812E)
    (fun t => xfp 1 0x02 0x01 0x0202 t && t.reg 2 == 0xEE) = true := by decide
theorem test_shiftLeft_T110 : nextIs (stepOf (regs [(15, 0x81)]) 0x8F0E) (xfp 15 0x01 0x01 0x0202) = true := by decide

/-- T58: whatever is drawn, and the count of draws advances. -/
theorem test_random_T58 : ∃ t, stepOf (regs [(3, 0x77)]) 0xC300 = .next t ∧ t.reg 3 = 0 ∧ t.pc = 0x0202 ∧ t.draws = 1 :=
  ⟨_, rfl, BitVec.zero_and (x := Config.randomByte 0), rfl, rfl⟩

/-! ## Index register and memory -/

theorem test_setIndex_T121 : nextIs (stepOf (fun s => { s with i := 0x1234 }) 0xA000)
    (fun t => t.i == 0 && t.pc == 0x0202) = true := by decide
theorem test_addIndex_T123 : nextIs (stepOf (fun s => regs [(0, 4), (15, 0x55)] { s with i := 0x0FFE }) 0xF01E)
    (fun t => t.i == 0x1002 && t.reg 15 == 0x55) = true := by decide
theorem test_addIndex_T124 : nextIs (stepOf (fun s => regs [(0, 0xFF)] { s with i := 0xFFFF }) 0xF01E)
    (fun t => t.i == 0x00FE) = true := by decide
theorem test_glyphAddr_T126 : nextIs (stepOf (regs [(4, 0x0A)]) 0xF429) (fun t => t.i == 0x0032) = true := by decide
theorem test_glyphAddr_T129 : nextIs (stepOf (regs [(15, 0xFF)]) 0xFF29) (fun t => t.i == 0x04FB) = true := by decide
theorem test_bcd_T130 : nextIs (stepOf (fun s => regs [(0, 0xFE)] { s with i := 0x300 }) 0xF033)
    (fun t => t.mem.readBytes 0x300 4 == [2, 5, 4, 0] && t.i == 0x300 && t.reg 0 == 0xFE) = true := by decide
theorem test_bcd_T135 : faultIs (stepOf (fun s => regs [(0, 0xFF)] { s with i := 0x0FFE }) 0xF033)
    (.addressOutOfRange (.data 0x0FFE)) = true := by decide
theorem test_regDump_T136 : nextIs (stepOf (fun s => regsA0 { s with i := 0x0FF0 }) 0xFF55)
    (fun t => t.byteAt 0xFF0 == 0xA0 && t.byteAt 0xFF7 == 0xA7 && t.byteAt 0xFFF == 0xAF && t.i == 0x0FF0) = true := by decide
theorem test_regDump_T139 : nextIs (stepOf (fun s => regs [(0, 0x12)] { s with i := 0x0200 }) 0xF055)
    (fun t => t.mem.readBytes 0x200 2 == [0x12, 0x55] && t.pc == 0x0202) = true := by decide
theorem test_regLoad_T140 : nextIs (stepOf (fun s => poke 0x300 [2, 5, 4] (regs [(3, 0x99)] { s with i := 0x300 })) 0xF265)
    (fun t => t.reg 0 == 2 && t.reg 1 == 5 && t.reg 2 == 4 && t.reg 3 == 0x99 && t.i == 0x300) = true := by decide
theorem test_regLoad_T143 : faultIs (stepOf (fun s => { s with i := 0x0FFF }) 0xF165)
    (.addressOutOfRange (.data 0x0FFF)) = true := by decide

/-! ## Display -/

theorem test_clear_T150 : nextIs (stepOf (fun s => plot [(9, 5)] (regs [(15, 1)] s)) 0x00E0)
    (fun t => litCount t == 0 && t.dirty && t.reg 15 == 1) = true := by decide
theorem test_draw_T156 : nextIs (stepOf (fun s => poke 0x300 [0xC0] (regs [(0, 0xFF), (1, 0xFF)] { s with i := 0x300 })) 0xD011)
    (fun t => lit [(63, 31), (0, 31)] t && litCount t == 2 && t.reg 15 == 0 && t.dirty) = true := by decide
theorem test_draw_T157 :
    nextIs (stepOf (fun s => plot [(3, 0), (4, 0)] (poke 0x300 [0xF0] { s with i := 0x300 })) 0xD011)
      (fun t => lit [(0, 0), (1, 0), (2, 0), (4, 0)] t && litCount t == 4 && t.reg 15 == 1) = true := by decide

/-! ## Keypad, timers, the fallback -/

theorem test_skipKey_T170 : nextIs (stepOf (fun s => regs [(2, 7)] { s with key := s.key.set 7 true }) 0xE29E)
    (fun t => t.pc == 0x0204) = true := by decide
theorem test_skipKey_T175 : faultIs (stepOf (regs [(0, 16)]) 0xE09E) (.addressOutOfRange (.key 16)) = true := by decide
theorem test_skipNokey_T172 : nextIs (stepOf (regs [(0, 3)]) 0xE0A1) (fun t => t.pc == 0x0204) = true := by decide
theorem test_skipNokey_T173 : nextIs (stepOf (fun s => regs [(0, 3)] { s with key := s.key.set 3 true }) 0xE0A1)
    (fun t => t.pc == 0x0202) = true := by decide
theorem test_waitKey_T177 : nextIs (stepOf (regs [(3, 0x33)]) 0xF30A)
    (fun t => t.mode == .awaitingKey && t.waitReg == 3 && t.pc == 0x0200 && t.reg 3 == 0x33) = true := by decide
theorem test_poll_T179 : nextIs (step (waiting [11, 4] State.reset))
    (fun t => t.reg 3 == 4 && t.pc == 0x0202 && t.mode == .running && t.key[11]) = true := by decide
theorem test_getDelay_T182 : nextIs (stepOf (fun s => { s with dt := 0x2A }) 0xF307)
    (fun t => t.reg 3 == 0x2A && t.dt == 0x2A) = true := by decide
theorem test_setDelay_T183 : nextIs (stepOf (regs [(3, 0x3C)]) 0xF315) (fun t => t.dt == 0x3C && t.st == 0) = true := by decide
theorem test_setSound_T185 : nextIs (stepOf (fun s => { s with st := 1 }) 0xF318) (fun t => t.st == 0 && t.dt == 0) = true ∧
    stepOutputs (State.reset.withFetchWord 16 0xF318) = [] := by decide
theorem test_unknown_T2 : nextIs (stepOf id 0x5121) (fun t => t.pc == 0x0202) = true ∧
    stepOutputs (State.reset.withFetchWord 16 0x5121) = [.unknownOpcode 0x5121 0x0200] := by decide

/-! ## The fetch -/

/-- T7: the last address a fetch succeeds at. -/
theorem test_fetch_T7 : nextIs (step { State.reset with pc := 0x0FFE }) (fun t => t.pc == 0x1000) = true := by decide
/-- T8. -/
theorem test_fetch_T8 : faultIs (step { State.reset with pc := 0x0FFF }) (.addressOutOfRange (.fetch 0x0FFF)) = true := by
  decide

/-! ## Host events -/

/-- T186, T187. -/
theorem test_tick_T187 : tickOutputs { State.reset with dt := 1, st := 1 } = [.beep] ∧
    (tick { State.reset with dt := 1, st := 1 }).st = 0 ∧ tickOutputs { State.reset with dt := 2, st := 2 } = [] ∧
    (tick { State.reset with dt := 2, st := 2 }).dt = 1 := by decide
/-- T188. -/
theorem test_tick_T188 : tickOutputs State.reset = [] ∧ (tick State.reset).dt = 0 ∧ (tick State.reset).st = 0 := by decide
theorem test_setKey_T192 : (setKey State.reset 5 true).key[5] = true ∧ (setKey State.reset 5 true).key[6] = false := by decide
theorem test_clearDirty_T194 : (clearDirty { State.reset with dirty := true }).dirty = false := by decide
/-- T203, and the glyph table of R43 in place. -/
theorem test_construct_T203 : nextIs (construct defaultGlyphTable [0x12] 0)
    (fun t => t.mem.readBytes 0x200 2 == [0x12, 0] && t.byteAt 0x23 == 0xF0 && t.byteAt 0x24 == 0x10) = true := by decide
/-- T201: 3585 bytes. -/
theorem test_construct_T201 : faultIs (construct defaultGlyphTable (List.replicate 3585 0) 0) (.romTooLarge 3585) = true := by
  rw [construct, if_neg (by rw [List.length_replicate]; decide), List.length_replicate]; rfl
/-- R200: the codes. -/
theorem test_fault_codes : (Fault.romTooLarge 0).code = 1 ∧ (Fault.addressOutOfRange (.fetch 0)).code = 2 ∧
    (Fault.stackOverflow 0).code = 3 ∧ (Fault.stackUnderflow 0).code = 4 ∧ Reply.ok.code = some 0 ∧
    (Output.unknownOpcode 0 0).code = some 5 := by decide
/-- R216: the step first, so an ST of 1 set by the step beeps at the tick that follows. -/
theorem test_step_then_tick : (deliverStepAndTick ((regs [(3, 1)] State.reset).withFetchWord 16 0xF318)).2 = [.beep] := by
  decide

/-! ## Witnesses: states and operands that meet the hypotheses of an obligation, at the ends of their ranges -/

/-- A state in which the next step runs the word `w`. -/
def placed (pre : State → State) (w : Nat) : State := (pre State.reset).withFetchWord 16 w

/-- PC at the last address a fetch succeeds at. -/
def lastPc (s : State) : State := { s with pc := 0x0FFE }

/-- A full stack whose entries, like PC, are as large as an invariant state allows. -/
def largest (s : State) : State :=
  { s with sp := 16, stack := Vector.replicate 16 0x1000, pc := 0x0FFE, v := s.v.set 0 0xFF }

theorem test_witness_DecodeOfEncodeIsIdentity :
    (Instr.draw 15 15 15).wf = true ∧ (Instr.unknown 0xFFFF).wf = true := by decide

theorem test_witness_StepRunsTheDecodedInstruction :
    let s := placed lastPc 0xF365
    s.mode = .running ∧ s.pc.toNat ≤ 4094 ∧
      decodeBytes [s.byteAt s.pc.toNat, s.byteAt (s.pc.toNat + 1)] = .ok (.regLoad 3, []) ∧ (Instr.regLoad 3).wf = true ∧
      [s.byteAt s.pc.toNat, s.byteAt (s.pc.toNat + 1)] = encodeBytes (.regLoad 3) :=
  ⟨by decide, by decide, by rfl, by decide, by decide⟩

theorem test_witness_FetchIsBoundedAndBigEndian :
    (lastPc State.reset).pc.toNat ≤ 4094 ∧
      (4094 < ({ State.reset with pc := 0x0FFF } : State).pc.toNat ∧ ({ State.reset with pc := 0x0FFF } : State).mode = .running) := by
  decide

/-- A word of every constructor completes a step, with one return address on the stack and every key register in range. -/
theorem test_witness_PcPolicyOfEveryInstruction :
    [0x00E0, 0x00EE, 0x1300, 0x2300, 0x3000, 0x4001, 0x5010, 0x6005, 0x7003, 0x8010, 0x8011, 0x8012, 0x8013, 0x8014, 0x8015,
      0x8016, 0x8017, 0x801E, 0x9010, 0xA300, 0xB300, 0xC30F, 0xD011, 0xE09E, 0xE0A1, 0xF007, 0xF00A, 0xF015, 0xF018, 0xF01E,
      0xF029, 0xF033, 0xF055, 0xF065, 0x0000].all (fun w =>
        (placed (fun s => { s with sp := 1 }) w).mode == .running &&
        decide ((placed (fun s => { s with sp := 1 }) w).pc.toNat ≤ 4094) &&
        nextIs (step (placed (fun s => { s with sp := 1 }) w)) (fun _ => true)) = true := by decide

/-- Every fault clause at the end of its range: a full and an empty stack, key index 16, a range one byte too long. -/
theorem test_witness_StepFaultsExactlyWhenTheSpecSays :
    faultIs (step { State.reset with pc := 0x0FFF }) (.addressOutOfRange (.fetch 0x0FFF)) ∧
    faultIs (step (placed id 0x00EE)) (.stackUnderflow 0x200) ∧
    faultIs (step (placed (fun s => { s with sp := 16 }) 0x2300)) (.stackOverflow 0x200) ∧
    faultIs (step (placed (regs [(4, 16)]) 0xE49E)) (.addressOutOfRange (.key 16)) ∧
    faultIs (step (placed (regs [(4, 16)]) 0xE4A1)) (.addressOutOfRange (.key 16)) ∧
    faultIs (step (placed (fun s => { s with i := 0x0FF2 }) 0xD01F)) (.addressOutOfRange (.data 0x0FF2)) ∧
    faultIs (step (placed (fun s => { s with i := 0x0FFE }) 0xF433)) (.addressOutOfRange (.data 0x0FFE)) ∧
    faultIs (step (placed (fun s => { s with i := 0x0FF1 }) 0xFF55)) (.addressOutOfRange (.data 0x0FF1)) ∧
    faultIs (step (placed (fun s => { s with i := 0x0FFF }) 0xF165)) (.addressOutOfRange (.data 0x0FFF)) := by decide

/-- The clauses of R86: ok, and each error kind a step can return. -/
theorem test_witness_StepReturnsOkOrAnErrorThatChangesNothing :
    nextIs (step (placed id 0x00E0)) (fun _ => true) ∧
    faultIs (step { State.reset with pc := 0x0FFF }) (.addressOutOfRange (.fetch 0x0FFF)) ∧
    faultIs (step (placed (fun s => { s with sp := 16 }) 0x2300)) (.stackOverflow 0x200) ∧
    faultIs (step (placed id 0x00EE)) (.stackUnderflow 0x200) := by decide

theorem test_witness_StepPollsWhileAwaitingKey :
    ((waiting [] State.reset).mode = .awaitingKey ∧ ∀ k : Fin 16, (waiting [] State.reset).key[k] = false) ∧
    ((waiting [15] State.reset).key[(15 : Fin 16)] = true ∧
      ∀ j : Fin 16, j < 15 → (waiting [15] State.reset).key[j] = false) ∧
    ((waiting [11, 4] State.reset).key[(4 : Fin 16)] = true ∧
      ∀ j : Fin 16, j < 4 → (waiting [11, 4] State.reset).key[j] = false) := by decide

/-- Each of the three ways the mode changes. -/
theorem test_witness_AwaitKeyModeBeginsByWaitKeyAndEndsByPollOrConstruct :
    (deliver (.construct defaultGlyphTable []) (waiting [] State.reset)).state.mode ≠ (waiting [] State.reset).mode ∧
    (deliver .step (waiting [4] State.reset)).state.mode ≠ (waiting [4] State.reset).mode ∧
    (deliver .step (placed id 0xF30A)).state.mode ≠ (placed id 0xF30A).mode := by decide

theorem test_witness_ConstructSetsEveryPieceOfState :
    (List.replicate 3584 (0xFF : Byte)).length ≤ 3584 ∧ ({ waiting [4] State.reset with draws := 7 } : State).draws = 7 :=
  ⟨by rw [List.length_replicate], rfl⟩

/-- Each code a step can return, and the pulse of an unknown word. -/
theorem test_witness_ResultsCarryTheirCodes :
    (deliver .step (placed id 0x00E0)).reply.code = some 0 ∧
    (deliver .step { State.reset with pc := 0x0FFF }).reply.code = some 2 ∧
    (deliver .step (placed (fun s => { s with sp := 16 }) 0x2300)).reply.code = some 3 ∧
    (deliver .step (placed id 0x00EE)).reply.code = some 4 ∧
    Output.unknownOpcode 0x5121 0x0200 ∈ (deliver .step (placed id 0x5121)).outputs := by decide

theorem test_witness_ConstructRejectsTooLongPrograms : 3584 < (List.replicate 3585 (0xFF : Byte)).length := by
  rw [List.length_replicate]; decide

/-- The largest stack entries, and a step to the largest PC, 4350; and a waiting machine. -/
theorem test_witness_StepKeepsTheInvariant :
    (placed largest 0xBFFF).inv ∧ nextIs (step (placed largest 0xBFFF)) (fun t => t.pc == 4350) = true ∧
    ({ placed id 0xF30A with mode := .awaitingKey, waitReg := 3 } : State).inv := by
  unfold State.inv; decide

theorem test_witness_EveryEventKeepsTheInvariant : ({ largest State.reset with pc := 4350 } : State).inv := by
  unfold State.inv; decide

/-- In range up to the last byte, out of range by one, and the empty run anywhere. -/
theorem test_witness_MemWriteThenMemRead :
    State.reset.mem.wf = true ∧ (0x0FFE : Word).toNat + [1, 2].length - 1 ≤ 0xFFF ∧
      0xFFF < (0x0FFF : Word).toNat + [1, 2].length - 1 ∧
      nextIs (orRaise (memWrite State.reset 0xFFFF []) .next) (fun t => t.mem == []) = true := by decide

theorem test_witness_CanonicalMemoriesThatReadAlikeAreEqual :
    let m := Memory.write (Memory.write [] 0x300 7) 0x200 9
    let m' := Memory.write (Memory.write (Memory.write [] 0x200 9) 0x300 7) 0x250 0
    m.wf = true ∧ m'.wf = true ∧ m ≠ [] ∧ (∀ a, m.read a = m'.read a) :=
  ⟨by decide, by decide, by decide, fun a => congrArg (fun m => Memory.read m a) (by decide)⟩

/-- BCD and REG-DUMP changing the last byte of memory, and an event that is no step. -/
theorem test_witness_MemoryChangesOnlyByBcdAndRegDump :
    let s := placed (fun s => regs [(0, 0xFF)] { s with i := 0x0FFD }) 0xF033
    let u := placed (fun s => regs [(0, 0x5A)] { s with i := 0x0FFF }) 0xF055
    s.mem.wf = true ∧ (deliver .step s).state.byteAt 0xFFF ≠ s.byteAt 0xFFF ∧
    u.mem.wf = true ∧ (deliver .step u).state.byteAt 0xFFF ≠ u.byteAt 0xFFF ∧ Event.snapshot ≠ .step := by decide

theorem test_witness_EveryEventWritesOnlyItsOwnState :
    (placed (fun s => { s with dirty := true }) 0x6005).dirty = true ∧
      nextIs (step (placed (fun s => { s with dirty := true }) 0x6005)) (fun _ => true) = true := by decide

theorem test_witness_StepChangesTimersOnlyBySetDelayAndSetSound :
    nextIs (step (placed (regs [(3, 0x3C)]) 0xF315)) (fun t => t.dt != State.reset.dt) = true ∧
      nextIs (step (placed (regs [(3, 0x3C)]) 0xF318)) (fun t => t.st != State.reset.st) = true := by decide

/-- A flag writer, a destination other than VF, and one of the rest. -/
theorem test_witness_FlagRegisterIsWrittenOnlyByFlagWriters :
    nextIs (exec (.addReg 15 15) State.reset) (fun _ => true) = true ∧
      ((14 : Reg) ≠ 15 ∧ nextIs (exec (.setLit 14 1) State.reset) (fun _ => true) = true) ∧
      nextIs (exec (.jump 0) State.reset) (fun _ => true) = true := by decide

/-- The largest address that can hold a jump to itself, and the entry point. -/
theorem test_witness_SelfJumpIsAFixedPointOfStep : (placed lastPc 0x1FFE).endedWell ∧ (placed id 0x1200).endedWell :=
  ⟨⟨by decide, by decide, 0xFFE, by decide⟩, ⟨by decide, by decide, 0x200, by decide⟩⟩

theorem test_witness_JumpSetsPcAlone : State.reset.pc.toNat = (0x200 : Addr).toNat := by decide

theorem test_witness_CallPushesTheReturnAddress :
    (({ State.reset with sp := 15 } : State).sp.val < 16 ∧ State.reset.sp.val < 16) ∧
      ({ State.reset with sp := 16 } : State).sp.val = 16 := by decide

theorem test_witness_ReturnPopsIntoPc :
    (0 < ({ State.reset with sp := 1 } : State).sp.val ∧ 0 < ({ State.reset with sp := 16 } : State).sp.val) ∧
      State.reset.sp.val = 0 := by decide

/-- The CALL at depth 15, and a state with other registers and PC at the depth it left. -/
theorem test_witness_ReturnAfterCallGoesToTheNextInstruction :
    let s : State := { State.reset with sp := 15 }
    s.sp.val < 16 ∧ nextIs (exec (.call 0x300) s) (fun t =>
      let u : State := { regsA0 t with pc := 0x0456 }
      u.sp == t.sp && u.stack[s.sp.val]? == t.stack[s.sp.val]?) = true := by decide

theorem test_witness_CompareRegistersAndSkip :
    ((0x5121 : Word).toNat / 0x1000 = 5 ∧ (0x5121 : Word).toNat % 16 ≠ 0) ∧
      ((0x9FFF : Word).toNat / 0x1000 = 9 ∧ (0x9FFF : Word).toNat % 16 ≠ 0) := by decide

/-- A destination other than VF (AddRegSumAndCarry, SubtractDifferenceAndNoBorrow, ShiftsByOneAndTheBitShiftedOut). -/
theorem test_witness_result_register_not_VF : (14 : Reg) ≠ 15 ∧ (0 : Reg) ≠ 15 := by decide

theorem test_witness_RandomIsADrawnByteUnderTheMask : (0x80 &&& 0xFF : Byte).getLsbD 7 = true := by decide

theorem test_witness_BcdStoresThreeDigits :
    State.reset.mem.wf = true ∧ ({ State.reset with i := 0x0FFD } : State).i.toNat + 2 ≤ 0xFFF ∧
      0xFFF < ({ State.reset with i := 0x0FFE } : State).i.toNat + 2 := by decide

theorem test_witness_RegDumpStoresTheRegisters_RegLoadReadsTheRegisters :
    State.reset.mem.wf = true ∧ ({ State.reset with i := 0x0FF0 } : State).i.toNat + (15 : Reg).val ≤ 0xFFF ∧
      0xFFF < ({ State.reset with i := 0x0FF1 } : State).i.toNat + (15 : Reg).val ∧
      ({ State.reset with i := 0x0FFF } : State).i.toNat + (0 : Reg).val ≤ 0xFFF := by decide

/-- No rows anywhere, rows up to the last byte, one row too many, and each clause on the cells. -/
theorem test_witness_DrawTogglesTheSpriteCells :
    ((15 : Nibble) ≠ 0 ∧ (0x0FF1 : Word).toNat + (15 : Nibble).toNat - 1 ≤ 0xFFF) ∧
    ((15 : Nibble) ≠ 0 ∧ 0xFFF < (0x0FF2 : Word).toNat + (15 : Nibble).toNat - 1) ∧
    State.reset.spriteLands 0 1 1 0 3 ∧ ¬State.reset.spriteLands 0 1 1 0 4 ∧ ¬State.reset.spriteLands 0 1 1 31 63 ∧
    ((plot [(3, 0)] State.reset).spriteLands 0 1 1 0 3 ∧ (plot [(3, 0)] State.reset).pixel 0 3 = true) := by
  unfold State.spriteLands; decide

theorem test_witness_DrawTogglesTheSpriteCells_no_collision :
    ∀ y x, State.reset.spriteLands 0 1 1 y x → State.reset.pixel y x = false :=
  fun y x _ => Framebuffer.pixel_blank y x

theorem test_witness_DrawingTwiceRestoresTheFramebuffer :
    (0 : Reg) ≠ 15 ∧ (1 : Reg) ≠ 15 ∧ ((1 : Nibble) = 0 ∨ State.reset.i.toNat + (1 : Nibble).toNat - 1 ≤ 0xFFF) ∧
      State.reset.spriteLands 0 1 1 0 3 := by
  unfold State.spriteLands; decide

theorem test_witness_SkipOnKeyState :
    (((regs [(4, 15)] State.reset).reg 4).toNat = (15 : Fin 16).val) ∧ 15 < ((regs [(4, 16)] State.reset).reg 4).toNat := by
  decide

theorem test_witness_SetSoundNeverBeeps :
    let s := placed (fun s => lastPc { s with st := 1 }) 0xFF18
    s.mode = .running ∧ s.pc.toNat ≤ 4094 ∧ fetchWord s = BitVec.ofNat 16 (0xF018 + 0x100 * (15 : Reg).val) := by decide

theorem test_witness_UnknownWordIsAReportedNoOp :
    let s := placed lastPc 0x8128
    isUnknownWord 0x8128 = true ∧ s.mode = .running ∧ s.pc.toNat ≤ 4094 ∧ isUnknownWord (fetchWord s) = true := by decide

theorem test_witness_SetKeyWritesOneKey : (setKey State.reset 15 true).key[(15 : Fin 16)] = true := by decide

theorem test_witness_FramebufferBoundaryReadsAndClears :
    (2047 : Fin 2048).val = 64 * (31 : Fin 32).val + (63 : Fin 64).val ∧
      (1 : Fin 2048).val = 64 * (0 : Fin 32).val + (1 : Fin 64).val := by decide

end Sys2Proof.Tests
end

/-! # The state of the machine (10_state.md): what a step may write, and the invariant of reachable states -/

namespace Sys2Proof

/-! ## A decoded word is the word of its instruction -/

theorem encodeNNN_fieldNNN {w : Word} {op : Nat} (h : (fieldOp w).toNat = op) : encodeNNN op (fieldNNN w) = w := by
  apply BitVec.eq_of_toNat_eq
  rw [fieldOp_toNat] at h
  rw [encodeNNN_toNat (by omega), fieldNNN_toNat]
  omega

theorem encodeXNN_fields {w : Word} {op : Nat} {nn : Byte} (h : (fieldOp w).toNat = op)
    (hnn : (fieldNN w).toNat = nn.toNat) : encodeXNN op (fieldX w) nn = w := by
  apply BitVec.eq_of_toNat_eq
  rw [fieldOp_toNat] at h
  rw [fieldNN_toNat] at hnn
  rw [encodeXNN_toNat (by omega), fieldX_val]
  omega

theorem encodeXYN_fields {w : Word} {op : Nat} {n : Nibble} (h : (fieldOp w).toNat = op)
    (hn : (fieldN w).toNat = n.toNat) : encodeXYN op (fieldX w) (fieldY w) n = w := by
  apply BitVec.eq_of_toNat_eq
  rw [fieldOp_toNat] at h
  rw [fieldN_toNat] at hn
  rw [encodeXYN_toNat (by omega), fieldX_val, fieldY_val]
  omega

theorem encode_decodeFamily0 {w : Word} (h : (fieldOp w).toNat = 0x0) : encode (decodeFamily0 w) = w := by
  have hw := encodeNNN_fieldNNN h
  unfold decodeFamily0
  split
  · rename_i hn
    rw [← hw, encodeNNN, hn]; rfl
  · rename_i hn
    rw [← hw, encodeNNN, hn]; rfl
  · rfl

theorem encode_decodeFamily5 {w : Word} (h : (fieldOp w).toNat = 0x5) : encode (decodeFamily5 w) = w := by
  unfold decodeFamily5
  split
  · rename_i hn
    exact encodeXYN_fields h hn
  · rfl

theorem encode_decodeFamily8 {w : Word} (h : (fieldOp w).toNat = 0x8) : encode (decodeFamily8 w) = w := by
  unfold decodeFamily8
  split
  case h_10 => rfl
  all_goals
    rename_i hn
    exact encodeXYN_fields h hn

theorem encode_decodeFamily9 {w : Word} (h : (fieldOp w).toNat = 0x9) : encode (decodeFamily9 w) = w := by
  unfold decodeFamily9
  split
  · rename_i hn
    exact encodeXYN_fields h hn
  · rfl

theorem encode_decodeFamilyE {w : Word} (h : (fieldOp w).toNat = 0xE) : encode (decodeFamilyE w) = w := by
  unfold decodeFamilyE
  split
  case h_3 => rfl
  all_goals
    rename_i hnn
    exact encodeXNN_fields h hnn

theorem encode_decodeFamilyF {w : Word} (h : (fieldOp w).toNat = 0xF) : encode (decodeFamilyF w) = w := by
  unfold decodeFamilyF
  split
  case h_10 => rfl
  all_goals
    rename_i hnn
    exact encodeXNN_fields h hnn

/-- Decoding drops no bit of the word: every operand field and every literal digit comes back (R61, R64, R66). -/
theorem encode_decode (w : Word) : encode (decode w) = w := by
  unfold decode
  split <;> rename_i h
  · exact encode_decodeFamily0 h
  · exact encodeNNN_fieldNNN h
  · exact encodeNNN_fieldNNN h
  · exact encodeXNN_fields h rfl
  · exact encodeXNN_fields h rfl
  · exact encode_decodeFamily5 h
  · exact encodeXNN_fields h rfl
  · exact encodeXNN_fields h rfl
  · exact encode_decodeFamily8 h
  · exact encode_decodeFamily9 h
  · exact encodeNNN_fieldNNN h
  · exact encodeNNN_fieldNNN h
  · exact encodeXNN_fields h rfl
  · exact encodeXYN_fields h rfl
  · exact encode_decodeFamilyE h
  · simp only [imp_false] at *
    have hlt := (fieldOp w).isLt
    exact encode_decodeFamilyF (by omega)

end Sys2Proof

namespace Sys2Proof.Machine

/-! ## What an operation that may raise did when it succeeded -/

theorem popStack_eq_ok {s : State} {p : Word × State} (hp : popStack s = .ok p) :
    ∃ h : 0 < s.sp.val, p = (s.stack[s.sp.val - 1], { s with sp := ⟨s.sp.val - 1, by omega⟩ }) := by
  by_cases h : 0 < s.sp.val
  · exact ⟨h, Except.ok.inj (hp.symm.trans (popStack_ok h))⟩
  · cases hp.symm.trans (popStack_error h)

theorem pushStack_eq_ok {s t : State} {w : Word} (ht : pushStack s w = .ok t) :
    ∃ h : s.sp.val < 16, t = { s with stack := s.stack.set s.sp.val w, sp := ⟨s.sp.val + 1, by omega⟩ } := by
  by_cases h : s.sp.val < 16
  · exact ⟨h, Except.ok.inj (ht.symm.trans (pushStack_ok w h))⟩
  · cases ht.symm.trans (pushStack_error w h)

theorem memWrite_eq_ok {s t : State} {addr : Word} {bytes : List Byte} (ht : memWrite s addr bytes = .ok t) :
    (bytes.length = 0 ∨ addr.toNat + bytes.length ≤ 4096) ∧ t = { s with mem := s.mem.writeBytes addr.toNat bytes } := by
  by_cases h : bytes.length = 0 ∨ addr.toNat + bytes.length ≤ 4096
  · exact ⟨h, Except.ok.inj (ht.symm.trans (memWrite_ok h))⟩
  · cases ht.symm.trans (memWrite_error h)

/-! ## The data registers an instruction may write (R11, R12) -/

/-- `i` may write `V[q]`: as its destination, as a loaded register, or as the flag. -/
def writesReg : Instr → Reg → Prop
  | .addReg x _, q | .subReg x _, q | .shiftRight x _, q | .subRev x _, q | .shiftLeft x _, q => q = x ∨ q = Reg.flag
  | .draw _ _ _, q => q = Reg.flag
  | .setLit x _, q | .addLit x _, q | .assign x _, q | .orReg x _, q | .andReg x _, q | .xorReg x _, q | .random x _, q
  | .getDelay x, q => q = x
  | .regLoad x, q => q.val ≤ x.val
  | _, _ => False

theorem State.reg_setReg_ne (s : State) {r q : Reg} (h : q ≠ r) (b : Byte) : (s.setReg r b).reg q = s.reg q := by
  rw [State.reg_setReg, if_neg h]

theorem State.reg_setResultAndFlag_ne (s : State) {x q : Reg} (h : ¬(q = x ∨ q = Reg.flag)) (b : Byte) (f : Bool) :
    (s.setResultAndFlag x b f).reg q = s.reg q := by
  rw [not_or] at h
  rw [State.reg_setResultAndFlag, if_neg h.2, if_neg h.1]

/-- The bytes FX65 has read fill no register above `V[X]` (R145). -/
theorem State.reg_setRegs_above (s : State) {x q : Reg} (h : ¬q.val ≤ x.val) {bytes : List Byte}
    (hb : memRead s s.i (x.val + 1) = .ok bytes) : (s.setRegs 0 bytes).reg q = s.reg q := by
  have hlen : bytes.length = x.val + 1 := by
    rw [memRead] at hb
    split at hb
    · rw [← Except.ok.inj hb, Memory.readBytes_length]
    · cases hb
  rw [State.reg_setRegs s 0 bytes (by omega), if_neg (by omega)]

/-! ## What an instruction may write

The pieces of state an executed instruction can have written, by the class of the instruction (41 to 45 of the spec): every
rule below about which instruction may touch what is read off the cases of `Effect`. -/

/-- `Effect s i t`: what an execution of `i` that leads from `s` to `t` can have written. Open are the values of the data
registers written, of `I`, of the framebuffer, of the draw count, and the target of a jump up to the bound of R14. -/
inductive Effect (s : State) : Instr → State → Prop
  /-- Registers, `I`, `PC` and the draw count: the arithmetic, skip, jump, load and index instructions, and the fallback. -/
  | compute (i : Instr) (v : Vector Byte 16) (idx pc : Word) (draws : Nat)
      (hv : ∀ q : Reg, ¬writesReg i q → v[q] = s.v[q])
      (hpc : pc = s.pc + 2 ∨ pc = s.pc + 4 ∨ pc.toNat ≤ 0xFFF + 0xFF) :
      Effect s i { s with v := v, i := idx, pc := pc, draws := draws }
  | paint (i : Instr) (hi : i = .clear ∨ ∃ x y n, i = .draw x y n) (v : Vector Byte 16) (fb : Framebuffer)
      (hv : ∀ q : Reg, ¬writesReg i q → v[q] = s.v[q]) :
      Effect s i { s with v := v, fb := fb, dirty := true, pc := s.pc + 2 }
  | store (i : Instr) (bytes : List Byte)
      (hi : (∃ x, i = .bcd x ∧ bytes = decimalDigits (s.reg x)) ∨ ∃ x, i = .regDump x ∧ bytes = s.regList (x.val + 1))
      (hr : bytes.length = 0 ∨ s.i.toNat + bytes.length ≤ 4096) :
      Effect s i { s with mem := s.mem.writeBytes s.i.toNat bytes, pc := s.pc + 2 }
  | ret (h : 0 < s.sp.val) :
      Effect s .ret { s with sp := ⟨s.sp.val - 1, by omega⟩, pc := s.stack[s.sp.val - 1] }
  | call (nnn : Addr) (h : s.sp.val < 16) :
      Effect s (.call nnn)
        { s with stack := s.stack.set s.sp.val (s.pc + 2), sp := ⟨s.sp.val + 1, by omega⟩, pc := zextAddr nnn }
  | waitKey (x : Reg) : Effect s (.waitKey x) { s with waitReg := x, mode := .awaitingKey }
  | setDelay (x : Reg) : Effect s (.setDelay x) { s with dt := s.reg x, pc := s.pc + 2 }
  | setSound (x : Reg) : Effect s (.setSound x) { s with st := s.reg x, pc := s.pc + 2 }

theorem Effect.advance {s : State} {i : Instr} {v : Vector Byte 16} {idx : Word} {draws : Nat}
    (hv : ∀ q : Reg, ¬writesReg i q → v[q] = s.v[q]) :
    Effect s i { s with v := v, i := idx, pc := s.pc + 2, draws := draws } := .compute i v idx _ draws hv (.inl rfl)

theorem Effect.skipIf {s : State} (i : Instr) (c : Bool) : Effect s i (s.skipIf c) :=
  .compute i s.v s.i _ s.draws (fun _ _ => rfl) (by cases c <;> simp)

theorem zextAddr_toNat (nnn : Addr) : (zextAddr nnn).toNat = nnn.toNat := by
  have := nnn.isLt
  rw [zextAddr, BitVec.toNat_setWidth]
  omega

theorem zextAddr_le (nnn : Addr) : (zextAddr nnn).toNat ≤ 0xFFF := by
  have := nnn.isLt
  rw [zextAddr_toNat]
  omega

/-- The full sum of BNNN: it does not wrap (R103). -/
theorem zextAddr_add_zextReg_toNat (nnn : Addr) (s : State) (r : Reg) :
    (zextAddr nnn + zextReg s r).toNat = nnn.toNat + (s.reg r).toNat := by
  have := nnn.isLt
  have := (s.reg r).isLt
  rw [BitVec.toNat_add, zextAddr_toNat, zextReg, BitVec.toNat_setWidth]
  omega

theorem zextAddr_add_zextReg_le (nnn : Addr) (s : State) (r : Reg) :
    (zextAddr nnn + zextReg s r).toNat ≤ 0xFFF + 0xFF := by
  have := nnn.isLt
  have := (s.reg r).isLt
  rw [zextAddr_add_zextReg_toNat]
  omega

/-- Every instruction that answers a next state has one of the effects. -/
theorem effect_of_exec {i : Instr} {s t : State} (h : exec i s = .next t) : Effect s i t := by
  cases i with
  | clear => cases h; exact .paint _ (.inl rfl) _ _ fun _ _ => rfl
  | draw x y n =>
    obtain ⟨rows, _, h⟩ := orRaise_eq_next.1 h
    cases h
    exact .paint _ (.inr ⟨x, y, n, rfl⟩) _ _ fun q hq => State.reg_setReg_ne _ hq _
  | ret =>
    obtain ⟨p, hp, h⟩ := orRaise_eq_next.1 h
    obtain ⟨hsp, rfl⟩ := popStack_eq_ok hp
    cases h
    exact .ret hsp
  | call nnn =>
    obtain ⟨u, hu, h⟩ := orRaise_eq_next.1 h
    obtain ⟨hsp, rfl⟩ := pushStack_eq_ok hu
    cases h
    exact .call nnn hsp
  | bcd x =>
    obtain ⟨u, hu, h⟩ := orRaise_eq_next.1 h
    obtain ⟨hr, rfl⟩ := memWrite_eq_ok hu
    cases h
    exact .store _ _ (.inl ⟨x, rfl, rfl⟩) hr
  | regDump x =>
    obtain ⟨u, hu, h⟩ := orRaise_eq_next.1 h
    obtain ⟨hr, rfl⟩ := memWrite_eq_ok hu
    cases h
    exact .store _ _ (.inr ⟨x, rfl, rfl⟩) hr
  | regLoad x =>
    obtain ⟨bytes, hb, h⟩ := orRaise_eq_next.1 h
    cases h
    rw [State.setRegs_eq]
    exact .advance fun q hq => State.reg_setRegs_above s hq hb
  | skipKey x | skipNokey x =>
    obtain ⟨k, _, h⟩ := orRaise_eq_next.1 h
    cases h
    exact .skipIf _ _
  | skipEqLit x nn | skipNeLit x nn | skipEqReg x y | skipNeReg x y => cases h; exact .skipIf _ _
  | jump nnn => cases h; exact .compute _ _ _ _ _ (fun _ _ => rfl) (.inr (.inr ((zextAddr_le nnn).trans (by decide))))
  | jumpOffset nnn => cases h; exact .compute _ _ _ _ _ (fun _ _ => rfl) (.inr (.inr (zextAddr_add_zextReg_le nnn s 0)))
  | waitKey x => cases h; exact .waitKey x
  | setDelay x => cases h; exact .setDelay x
  | setSound x => cases h; exact .setSound x
  | setIndex nnn | addIndex x | glyphAddr x | unknown w => cases h; exact .advance fun _ _ => rfl
  | setLit x nn | addLit x nn | random x nn | getDelay x | assign x y | orReg x y | andReg x y | xorReg x y =>
    cases h
    exact .advance fun q hq => State.reg_setReg_ne _ hq _
  | addReg x y | subReg x y | subRev x y | shiftRight x y | shiftLeft x y =>
    cases h
    exact .advance fun q hq => State.reg_setResultAndFlag_ne s hq _ _

/-- A successful step is a poll or the execution of the fetched word (R80, R88). -/
theorem step_next_cases {s t : State} (h : step s = .next t) :
    (s.mode = .awaitingKey ∧ t = poll s) ∨
    (s.mode = .running ∧ s.pc.toNat ≤ Config.fetchMax ∧ exec (decode (fetchWord s)) s = .next t) := by
  cases hm : s.mode with
  | awaitingKey => exact .inl ⟨rfl, by simpa [step_waiting hm, eq_comm] using h⟩
  | running =>
    by_cases hp : s.pc.toNat ≤ Config.fetchMax
    · exact .inr ⟨rfl, hp, step_running hm hp ▸ h⟩
    · cases (step_beyond hm hp).symm.trans h

/-- A poll leaves the state as it was, or writes one register, `PC` and the mode (R183). -/
theorem poll_cases (s : State) :
    poll s = s ∨ ∃ k : Fin 16, s.key[k] = true ∧
      poll s = { (s.setReg s.waitReg (BitVec.ofNat 8 k.val)).advance with mode := .running } := by
  cases h : lowestPressed s with
  | none => exact .inl (poll_of_none h)
  | some k => exact .inr ⟨k, (lowestPressed_eq_some.1 h).1, poll_of_some h⟩

/-! ## The invariant of reachable states (R25) -/

/-- Every valid stack entry is an address CALL can have pushed (R15). -/
def State.stackBounded (s : State) : Prop := ∀ k : Fin 16, k.val < s.sp.val → s.stack[k].toNat ≤ 4096

/-- A machine that awaits no key meets the invariant by its memory, its stack and its `PC`. -/
theorem State.inv_of_running {s : State} (hm : s.mode = .running) (hmem : s.mem.wf = true) (hst : s.stackBounded)
    (hpc : s.pc.toNat ≤ 4350) : s.inv :=
  ⟨hmem, hst, hpc, fun hw => by rw [hm] at hw; cases hw⟩

/-- Settles O16: no entry of the empty memory list and of the empty stack can break the invariant. -/
theorem invariantHoldsAtReset : Obligations.InvariantHoldsAtReset :=
  State.inv_of_running rfl rfl (fun _ hk => absurd hk (Nat.not_lt_zero _)) (by decide)

/-- A pushed return address joins the bounded entries. -/
theorem State.stackBounded_push {s : State} (hst : s.stackBounded) (h : s.sp.val < 16) {w : Word} (hw : w.toNat ≤ 4096)
    (pc : Word) :
    ({ s with stack := s.stack.set s.sp.val w, sp := ⟨s.sp.val + 1, by omega⟩, pc := pc } : State).stackBounded := by
  intro k hk
  by_cases he : k.val = s.sp.val
  · simpa [he] using hw
  · have hlt : k.val < s.sp.val := Nat.lt_of_le_of_ne (Nat.le_of_lt_succ hk) he
    simpa [Vector.getElem_set, Ne.symm he] using hst k hlt

theorem toNat_add_le_of_fetchable {pc : Word} (hp : pc.toNat ≤ Config.fetchMax) (n : Word) :
    (pc + n).toNat ≤ 4094 + n.toNat := by
  have hle := Nat.mod_le (pc.toNat + n.toNat) (2 ^ 16)
  rw [Config.fetchMax] at hp
  rw [BitVec.toNat_add]
  omega

/-- What an instruction stores keeps the canonical form of memory (R41). -/
theorem Memory.writeBytes_wf_of_access {m : Memory} (h : m.wf = true) {addr : Nat} {bytes : List Byte}
    (hr : bytes.length = 0 ∨ addr + bytes.length ≤ 4096) : (m.writeBytes addr bytes).wf = true := by
  rcases hr with h0 | hle
  · rw [List.length_eq_zero_iff.1 h0]
    exact h
  · exact Memory.writeBytes_wf h hle

/-- The instruction fetched at a `PC` that a fetch succeeds at keeps the invariant. -/
theorem exec_keeps_inv {s t : State} (hs : s.inv) (hm : s.mode = .running) (hp : s.pc.toNat ≤ Config.fetchMax)
    (h : exec (decode (fetchWord s)) s = .next t) : t.inv := by
  obtain ⟨hmem, hst, hpc, -⟩ := hs
  have hpc2 : (s.pc + 2).toNat ≤ 4096 := toNat_add_le_of_fetchable hp 2
  have hpc4 : (s.pc + 4).toNat ≤ 4098 := toNat_add_le_of_fetchable hp 4
  have he := effect_of_exec h
  generalize hi : decode (fetchWord s) = i at he
  cases he with
  | compute _ v idx pc draws _ hto =>
    refine State.inv_of_running hm hmem hst ?_
    rcases hto with rfl | rfl | hle
    · exact hpc2.trans (by decide)
    · exact hpc4.trans (by decide)
    · exact hle
  | paint _ _ v fb _ => exact State.inv_of_running hm hmem hst (hpc2.trans (by decide))
  | store _ bytes _ hr =>
    exact State.inv_of_running hm (Memory.writeBytes_wf_of_access hmem hr) hst (hpc2.trans (by decide))
  | ret hsp =>
    refine State.inv_of_running hm hmem (fun k hk => hst k (Nat.lt_of_lt_of_le hk (Nat.sub_le _ _))) ?_
    exact (hst ⟨s.sp.val - 1, by omega⟩ (Nat.sub_lt hsp Nat.one_pos)).trans (by decide)
  | call nnn hsp =>
    exact State.inv_of_running hm hmem (State.stackBounded_push hst hsp hpc2 _) ((zextAddr_le nnn).trans (by decide))
  | waitKey x => exact ⟨hmem, hst, hpc, fun _ => ⟨hp, by rw [← hi, encode_decode]; rfl⟩⟩
  | setDelay x => exact State.inv_of_running hm hmem hst (hpc2.trans (by decide))
  | setSound x => exact State.inv_of_running hm hmem hst (hpc2.trans (by decide))

/-- The end of a wait leaves `PC` after the FX0A word, below the bound (R183). -/
theorem poll_keeps_inv {s : State} (hs : s.inv) (hm : s.mode = .awaitingKey) : (poll s).inv := by
  rcases poll_cases s with h | ⟨k, -, h⟩
  · rwa [h]
  · obtain ⟨hmem, hst, -, hw⟩ := hs
    rw [h]
    exact State.inv_of_running rfl hmem hst ((toNat_add_le_of_fetchable (hw hm).1 2).trans (by decide))

/-- Settles O17: a poll and the fetched instruction both keep the invariant. -/
theorem stepKeepsTheInvariant : Obligations.StepKeepsTheInvariant := by
  intro s t hs h
  rcases step_next_cases h with ⟨hm, rfl⟩ | ⟨hm, hp, hx⟩
  · exact poll_keeps_inv hs hm
  · exact exec_keeps_inv hs hm hp hx

theorem construct_inv {glyphs : Vector Byte 80} {rom : List Byte} {draws : Nat} {t : State}
    (h : construct glyphs rom draws = .next t) : t.inv := by
  by_cases hrom : rom.length ≤ Config.romMax
  · obtain ⟨-, hst, hpc, -⟩ := invariantHoldsAtReset
    have hglyphs : (Memory.writeBytes [] 0 glyphs.toList).wf = true := Memory.writeBytes_wf rfl (by simp [Config.memSize])
    have hfits : Config.progBase + rom.length ≤ Config.memSize := Nat.add_le_add_left hrom Config.progBase
    cases (construct_ok glyphs draws hrom).symm.trans h
    exact State.inv_of_running rfl (Memory.writeBytes_wf hglyphs hfits) hst hpc
  · cases (construct_error glyphs draws hrom).symm.trans h

/-- An event that raises leaves the state before it standing: what holds of that state and of every state the event can
succeed with holds of the machine after the event (R86, R206). -/
theorem settle_state_of {P : State → Prop} {s : State} {r : Result} {o : List Output} (hs : P s)
    (hr : ∀ t, r = .next t → P t) : P (settle s r o).state := by
  cases r with
  | next t => exact hr t rfl
  | fault f => exact hs
  | refused q => exact hs

/-- Settles O18: the host's own events write nothing the invariant speaks of, construction meets it afresh, and a
failing event changes nothing. -/
theorem everyEventKeepsTheInvariant : Obligations.EveryEventKeepsTheInvariant := by
  intro e s hs
  cases e with
  | construct glyphs rom => exact settle_state_of hs fun _ => construct_inv
  | step => exact settle_state_of hs fun t => stepKeepsTheInvariant s t hs
  | tick => exact hs
  | setKey index pressed => exact hs
  | clearDirty => exact hs
  | snapshot => exact hs
  | isDirty => exact hs

/-! ## Which instruction may touch which piece (R26) -/

theorem exec_key {i : Instr} {s t : State} (h : exec i s = .next t) : t.key = s.key := by
  cases effect_of_exec h <;> rfl

theorem exec_reg {i : Instr} {s t : State} {q : Reg} (h : exec i s = .next t) (hq : ¬writesReg i q) :
    t.reg q = s.reg q := by
  cases effect_of_exec h with
  | compute _ _ _ _ _ hv => exact hv q hq
  | paint _ _ _ _ hv => exact hv q hq
  | _ => rfl

theorem exec_dirty {i : Instr} {s t : State} (h : exec i s = .next t) (hd : s.dirty = true) : t.dirty = true := by
  cases effect_of_exec h with
  | paint => rfl
  | _ => exact hd

theorem exec_dt {i : Instr} {s t : State} (h : exec i s = .next t) :
    t.dt = s.dt ∨ ∃ x, i = .setDelay x ∧ t.dt = s.reg x := by
  cases effect_of_exec h with
  | setDelay x => exact .inr ⟨x, rfl, rfl⟩
  | _ => exact .inl rfl

theorem exec_st {i : Instr} {s t : State} (h : exec i s = .next t) :
    t.st = s.st ∨ ∃ x, i = .setSound x ∧ t.st = s.reg x := by
  cases effect_of_exec h with
  | setSound x => exact .inr ⟨x, rfl, rfl⟩
  | _ => exact .inl rfl

theorem exec_mode {i : Instr} {s t : State} (h : exec i s = .next t) : t.mode = s.mode ∨ ∃ x, i = .waitKey x := by
  cases effect_of_exec h with
  | waitKey x => exact .inr ⟨x, rfl⟩
  | _ => exact .inl rfl

/-- A poll writes no key, no timer and not the dirty flag (R183). -/
theorem poll_frame (s : State) :
    (poll s).key = s.key ∧ (poll s).dirty = s.dirty ∧ (poll s).dt = s.dt ∧ (poll s).st = s.st := by
  rcases poll_cases s with h | ⟨k, -, h⟩ <;> rw [h] <;> exact ⟨rfl, rfl, rfl, rfl⟩

theorem step_key {s t : State} (h : step s = .next t) : t.key = s.key := by
  rcases step_next_cases h with ⟨-, rfl⟩ | ⟨-, -, hx⟩
  · exact (poll_frame s).1
  · exact exec_key hx

theorem step_dirty {s t : State} (h : step s = .next t) (hd : s.dirty = true) : t.dirty = true := by
  rcases step_next_cases h with ⟨-, rfl⟩ | ⟨-, -, hx⟩
  · exact (poll_frame s).2.1.trans hd
  · exact exec_dirty hx hd

theorem changesOnly_tick (s : State) : ChangesOnly (fun p => p = .dt ∨ p = .st) s (tick s) := by
  intro p hp
  cases p with
  | dt => exact absurd (.inl rfl) hp
  | st => exact absurd (.inr rfl) hp
  | _ => rfl

theorem changesOnly_setKey (s : State) (k : Fin 16) (b : Bool) : ChangesOnly (fun p => p = .key k) s (setKey s k b) := by
  intro p hp
  cases p with
  | key j =>
    have hne : k.val ≠ j.val := fun e => hp (by rw [Fin.ext e])
    exact Vector.getElem_set_ne k.isLt j.isLt hne
  | _ => rfl

theorem changesOnly_clearDirty (s : State) : ChangesOnly (fun p => p = .dirty) s (clearDirty s) := by
  intro p hp
  cases p with
  | dirty => exact absurd rfl hp
  | _ => rfl

/-- Settles O22: each event's own frame. -/
theorem everyEventWritesOnlyItsOwnState : Obligations.EveryEventWritesOnlyItsOwnState := fun s =>
  ⟨fun _ h => ⟨fun k => by rw [step_key h], step_dirty h⟩, changesOnly_tick s, changesOnly_setKey s,
    changesOnly_clearDirty s, rfl, rfl⟩

/-- Settles O23: a poll counts no timer, and an executed instruction writes one only as FX15 or FX18. -/
theorem stepChangesTimersOnlyBySetDelayAndSetSound : Obligations.StepChangesTimersOnlyBySetDelayAndSetSound := by
  intro s t h
  rcases step_next_cases h with ⟨-, rfl⟩ | ⟨hm, -, hx⟩
  · obtain ⟨-, -, hdt, hst⟩ := poll_frame s
    exact ⟨absurd hdt, absurd hst⟩
  · exact ⟨fun hne => ⟨hm, (exec_dt hx).resolve_left hne⟩, fun hne => ⟨hm, (exec_st hx).resolve_left hne⟩⟩

/-- A step that changes the mode is a poll that sees a pressed key, or executes FX0A. -/
theorem step_mode {s t : State} (h : step s = .next t) (hne : t.mode ≠ s.mode) :
    (s.mode = .awaitingKey ∧ ∃ k : Fin 16, s.key[k] = true) ∨
    (s.mode = .running ∧ ∃ x, decode (fetchWord s) = .waitKey x) := by
  rcases step_next_cases h with ⟨hm, rfl⟩ | ⟨hm, -, hx⟩
  · rcases poll_cases s with hp | ⟨k, hk, -⟩
    · exact absurd (by rw [hp]) hne
    · exact .inl ⟨hm, k, hk⟩
  · exact .inr ⟨hm, (exec_mode hx).resolve_left hne⟩

theorem construct_mode {glyphs : Vector Byte 80} {rom : List Byte} {draws : Nat} {t : State}
    (h : construct glyphs rom draws = .next t) : t.mode = .running := by
  by_cases hrom : rom.length ≤ Config.romMax
  · cases (construct_ok glyphs draws hrom).symm.trans h
    rfl
  · cases (construct_error glyphs draws hrom).symm.trans h

/-- Settles O11: of the events only a construction and a step write the mode. -/
theorem awaitKeyModeBeginsByWaitKeyAndEndsByPollOrConstruct :
    Obligations.AwaitKeyModeBeginsByWaitKeyAndEndsByPollOrConstruct := by
  intro e s
  cases e with
  | construct glyphs rom =>
    refine settle_state_of (P := fun u => u.mode ≠ s.mode → _) (absurd rfl) fun t ht hne => ?_
    rw [construct_mode ht] at hne
    cases hm : s.mode with
    | running => exact absurd hm.symm hne
    | awaitingKey => exact .inl ⟨rfl, glyphs, rom, rfl⟩
  | step =>
    refine settle_state_of (P := fun u => u.mode ≠ s.mode → _) (absurd rfl) fun t ht hne => ?_
    rcases step_mode ht hne with ⟨hm, hk⟩ | ⟨hm, hx⟩
    · exact .inr (.inl ⟨hm, rfl, hk⟩)
    · exact .inr (.inr ⟨hm, rfl, hx⟩)
  | tick | setKey | clearDirty | snapshot | isDirty => exact absurd rfl

/-! ## The canonical form of memory (R22, R40) -/

/-- A canonical list whose addresses all lie above the first address of another reads another byte there. -/
theorem Memory.read_cons_ne {lo lo' : Nat} {c : Host.Cell} {m m' : Memory} (h : Memory.wfFrom lo (c :: m) = true)
    (h' : Memory.wfFrom lo' m' = true) (hlt : c.1 < lo') : Memory.read (c :: m) c.1 ≠ m'.read c.1 := by
  obtain ⟨-, -, hne, -⟩ := (Memory.wfFrom_cons lo c m).1 h
  rwa [Memory.read, if_pos rfl, Memory.read_below h' hlt]

/-- What two canonical lists with the same first entry read alike, their tails read alike. -/
theorem Memory.read_tail_eq {c : Host.Cell} {m m' : Memory} (h : Memory.wfFrom (c.1 + 1) m = true)
    (h' : Memory.wfFrom (c.1 + 1) m' = true) (hread : ∀ a, Memory.read (c :: m) a = Memory.read (c :: m') a) (a : Nat) :
    m.read a = m'.read a := by
  by_cases ha : c.1 = a
  · rw [Memory.read_below h (by omega), Memory.read_below h' (by omega)]
  · simpa [Memory.read, ha] using hread a

/-- The empty list reads another byte at the first address a canonical list has. -/
theorem Memory.read_cons_ne_nil {lo : Nat} {c : Host.Cell} {m : Memory} (h : Memory.wfFrom lo (c :: m) = true) :
    Memory.read (c :: m) c.1 ≠ Memory.read [] c.1 :=
  Memory.read_cons_ne h (m' := []) (lo' := c.1 + 1) rfl (Nat.lt_succ_self _)

theorem Memory.eq_of_read_eq {lo : Nat} {m m' : Memory} (h : Memory.wfFrom lo m = true) (h' : Memory.wfFrom lo m' = true)
    (hread : ∀ a, m.read a = m'.read a) : m = m' := by
  induction m generalizing lo m' with
  | nil =>
    cases m' with
    | nil => rfl
    | cons c' m' => exact absurd (hread c'.1).symm (Memory.read_cons_ne_nil h')
  | cons c m ih =>
    cases m' with
    | nil => exact absurd (hread c.1) (Memory.read_cons_ne_nil h)
    | cons c' m' =>
      obtain ⟨-, hc, hv, hm⟩ := (Memory.wfFrom_cons lo c m).1 h
      obtain ⟨-, hc', hv', hm'⟩ := (Memory.wfFrom_cons lo c' m').1 h'
      rcases Nat.lt_trichotomy c.1 c'.1 with hlt | heq | hgt
      · have hat : Memory.wfFrom c'.1 (c' :: m') = true := (Memory.wfFrom_cons _ c' m').2 ⟨Nat.le_refl _, hc', hv', hm'⟩
        exact absurd (hread c.1) (Memory.read_cons_ne h hat hlt)
      · obtain rfl : c = c' := Prod.ext heq (by simpa [Memory.read, heq] using hread c.1)
        rw [ih hm hm' (Memory.read_tail_eq hm hm' hread)]
      · have hat : Memory.wfFrom c.1 (c :: m) = true := (Memory.wfFrom_cons _ c m).2 ⟨Nat.le_refl _, hc, hv, hm⟩
        exact absurd (hread c'.1).symm (Memory.read_cons_ne h' hat hgt)

/-- Settles O20, by induction on the two lists: their least listed addresses agree. -/
theorem canonicalMemoriesThatReadAlikeAreEqual : Obligations.CanonicalMemoriesThatReadAlikeAreEqual :=
  fun _ _ h h' hread => Memory.eq_of_read_eq h h' hread

/-! ## VF as the flag register (R12, R134) -/

/-- A result and its flag leave 0 or 1 in VF, whatever the destination is (R133). -/
theorem State.flag_setResultAndFlag (s : State) (x : Reg) (b : Byte) (f : Bool) :
    (s.setResultAndFlag x b f).reg 15 = 0 ∨ (s.setResultAndFlag x b f).reg 15 = 1 := by
  rw [State.reg_setResultAndFlag, if_pos rfl]
  exact flagByte_eq_zero_or_one f

/-- Settles O24: the flag writers end with the flag, and every other instruction has VF among its registers only as its
destination. -/
theorem flagRegisterIsWrittenOnlyByFlagWriters : Obligations.FlagRegisterIsWrittenOnlyByFlagWriters := by
  intro i s t h
  cases i with
  | addReg x y | subReg x y | shiftRight x y | subRev x y | shiftLeft x y =>
    cases h
    exact State.flag_setResultAndFlag s x _ _
  | draw x y n =>
    obtain ⟨rows, _, h⟩ := orRaise_eq_next.1 h
    cases h
    rw [State.reg_advance, State.reg_setFlag, if_pos rfl]
    exact flagByte_eq_zero_or_one _
  | setLit x nn | addLit x nn | assign x y | orReg x y | andReg x y | xorReg x y | random x nn | getDelay x =>
    exact fun hx => exec_reg h (Ne.symm hx)
  | regLoad x => exact fun hx => exec_reg h fun hle : 15 ≤ x.val => hx (Fin.ext (by omega))
  | clear | ret | jump | call | skipEqLit | skipNeLit | skipEqReg | skipNeReg | setIndex | jumpOffset | skipKey
  | skipNokey | waitKey | setDelay | setSound | addIndex | glyphAddr | bcd | regDump | unknown =>
    exact exec_reg h id

/-! ## The sound timer and the dirty flag are unobservable (R17, R20, R215) -/

/-- The machine with another sound timer and another dirty flag. -/
def State.withSoundAndDirty (s : State) (b : Byte) (d : Bool) : State := { s with st := b, dirty := d }

/-- The two outcomes are states that differ in the sound timer and the dirty flag alone, or the same error. -/
def Alike (r r' : Result) : Prop :=
  match r, r' with
  | .next t, .next u => u = t.withSoundAndDirty u.st u.dirty
  | .fault f, .fault g => f = g
  | _, _ => False

theorem alike_next (t : State) (b : Byte) (d : Bool) : Alike (.next t) (.next (t.withSoundAndDirty b d)) := rfl

/-- The same operation that may raise, followed by what is alike for each of its values. -/
theorem alike_orRaise {α : Type} (r : Except Fault α) {k k' : α → Result} (h : ∀ a, Alike (k a) (k' a)) :
    Alike (orRaise r k) (orRaise r k') := by
  cases r with
  | ok a => exact h a
  | error f => rfl

theorem State.setRegs_withSoundAndDirty (s : State) (b : Byte) (d : Bool) (k : Nat) (bytes : List Byte) :
    (s.withSoundAndDirty b d).setRegs k bytes = (s.setRegs k bytes).withSoundAndDirty b d := by
  induction bytes generalizing s k with
  | nil => rfl
  | cons c bytes ih => exact ih (s.setReg (Fin.ofNat 16 k) c) (k + 1)

/-- A store to memory from the two machines. -/
theorem alike_memWrite (s : State) (b : Byte) (d : Bool) (addr : Word) (bytes : List Byte) :
    Alike (orRaise (memWrite s addr bytes) fun t => .next t.advance)
      (orRaise (memWrite (s.withSoundAndDirty b d) addr bytes) fun t => .next t.advance) := by
  by_cases h : bytes.length = 0 ∨ addr.toNat + bytes.length ≤ 4096
  · rw [memWrite_ok h, memWrite_ok h]
    rfl
  · rw [memWrite_error h, memWrite_error h]
    rfl

theorem alike_exec (i : Instr) (s : State) (b : Byte) (d : Bool) :
    Alike (exec i s) (exec i (s.withSoundAndDirty b d)) := by
  cases i with
  | ret =>
    show Alike (orRaise (popStack s) _) (orRaise (popStack (s.withSoundAndDirty b d)) _)
    by_cases h : 0 < s.sp.val
    · rw [popStack_ok h, popStack_ok (s := s.withSoundAndDirty b d) h]
      rfl
    · rw [popStack_error h, popStack_error (s := s.withSoundAndDirty b d) h]
      rfl
  | call nnn =>
    show Alike (orRaise (pushStack s _) _) (orRaise (pushStack (s.withSoundAndDirty b d) _) _)
    by_cases h : s.sp.val < 16
    · rw [pushStack_ok _ h, pushStack_ok (s := s.withSoundAndDirty b d) _ h]
      rfl
    · rw [pushStack_error _ h, pushStack_error (s := s.withSoundAndDirty b d) _ h]
      rfl
  | bcd x => exact alike_memWrite s b d s.i (decimalDigits (s.reg x))
  | regDump x => exact alike_memWrite s b d s.i (s.regList (x.val + 1))
  | draw x y n => exact alike_orRaise (memRead s s.i n.toNat) fun rows => rfl
  | regLoad x =>
    refine alike_orRaise (memRead s s.i (x.val + 1)) fun bytes => ?_
    rw [State.setRegs_withSoundAndDirty]
    exact alike_next (s.setRegs 0 bytes).advance b d
  | skipKey x | skipNokey x => exact alike_orRaise (keyIndex s x) fun k => rfl
  | clear | jump | skipEqLit | skipNeLit | skipEqReg | setLit | addLit | assign | orReg | andReg | xorReg | addReg | subReg
  | shiftRight | subRev | shiftLeft | skipNeReg | setIndex | jumpOffset | random | getDelay | waitKey | setDelay | setSound
  | addIndex | glyphAddr | unknown => rfl

theorem alike_step (s : State) (b : Byte) (d : Bool) : Alike (step s) (step (s.withSoundAndDirty b d)) := by
  cases hm : s.mode with
  | running =>
    simp only [step, hm, show (s.withSoundAndDirty b d).mode = .running from hm]
    exact alike_orRaise (fetch s) fun w => alike_exec (decode w) s b d
  | awaitingKey =>
    rw [step_waiting hm, step_waiting (show (s.withSoundAndDirty b d).mode = .awaitingKey from hm)]
    cases hk : lowestPressed s with
    | none =>
      rw [poll_of_none hk, poll_of_none (show lowestPressed (s.withSoundAndDirty b d) = none from hk)]
      exact alike_next s b d
    | some k =>
      rw [poll_of_some hk, poll_of_some (show lowestPressed (s.withSoundAndDirty b d) = some k from hk)]
      exact alike_next { (s.setReg s.waitReg (BitVec.ofNat 8 k.val)).advance with mode := .running } b d

/-- Settles O25: fetch, poll and every instruction give alike outcomes on the two machines. -/
theorem soundTimerAndDirtyFlagAreUnobservable : Obligations.SoundTimerAndDirtyFlagAreUnobservable :=
  fun s b d => alike_step s b d

end Sys2Proof.Machine

/-! # Memory (20_memory.md): what an access can do, what construction fills in, who may change it, and when a step fails -/

namespace Sys2Proof.Machine

/-! ## The access primitives (R41) -/

/-- What every byte reads as after a run of bytes that R41 lets pass, the empty run at any address included. -/
theorem Memory.read_writeBytes_of_access {m : Memory} (h : m.wf = true) {addr : Nat} {bytes : List Byte}
    (hr : bytes.length = 0 ∨ addr + bytes.length ≤ 4096) (a : Nat) :
    (m.writeBytes addr bytes).read a =
      if addr ≤ a ∧ a < addr + bytes.length then bytes.getD (a - addr) 0 else m.read a := by
  rcases hr with h0 | hle
  · rw [if_neg (by omega), List.length_eq_zero_iff.1 h0]
    rfl
  · exact Memory.read_writeBytes h hle a

theorem Memory.read_writeBytes_inside {m : Memory} (h : m.wf = true) {addr : Nat} {bytes : List Byte}
    (hr : bytes.length = 0 ∨ addr + bytes.length ≤ 4096) {k : Nat} (hk : k < bytes.length) :
    (m.writeBytes addr bytes).read (addr + k) = bytes[k] := by
  rw [Memory.read_writeBytes_of_access h hr, if_pos (by omega), Nat.add_sub_cancel_left, List.getD_eq_getElem _ _ hk]

theorem Memory.read_writeBytes_outside {m : Memory} (h : m.wf = true) {addr : Nat} {bytes : List Byte}
    (hr : bytes.length = 0 ∨ addr + bytes.length ≤ 4096) {a : Nat} (ha : ¬(addr ≤ a ∧ a < addr + bytes.length)) :
    (m.writeBytes addr bytes).read a = m.read a := by
  rw [Memory.read_writeBytes_of_access h hr, if_neg ha]

/-- A run just written reads back. -/
theorem Memory.readBytes_writeBytes {m : Memory} (h : m.wf = true) {addr : Nat} {bytes : List Byte}
    (hr : bytes.length = 0 ∨ addr + bytes.length ≤ 4096) :
    (m.writeBytes addr bytes).readBytes addr bytes.length = bytes := by
  apply List.ext_getElem (Memory.readBytes_length _ _ _)
  intro k _ hk
  rw [Memory.readBytes_getElem, Memory.read_writeBytes_inside h hr hk]

/-- A write changes no byte outside its run, and no other piece of state. -/
theorem changesOnly_writeBytes {s : State} (h : s.mem.wf = true) {addr : Nat} {bytes : List Byte}
    (hr : bytes.length = 0 ∨ addr + bytes.length ≤ 4096) :
    ChangesOnly (fun p => ∃ a, p = .mem a ∧ addr ≤ a ∧ a < addr + bytes.length) s
      { s with mem := s.mem.writeBytes addr bytes } := by
  intro p hp
  cases p with
  | mem a => exact Memory.read_writeBytes_outside h hr fun ha => hp ⟨a, rfl, ha⟩
  | _ => rfl

/-- Settles O19: in range the run lands and reads back, out of range both primitives raise. -/
theorem memWriteThenMemRead : Obligations.MemWriteThenMemRead := by
  intro s addr bytes h
  constructor
  · intro hin
    have hr : bytes.length = 0 ∨ addr.toNat + bytes.length ≤ 4096 := hin.imp List.length_eq_zero_iff.2 (by omega)
    refine ⟨_, memWrite_ok hr, Memory.writeBytes_wf_of_access h hr, fun k => Memory.read_writeBytes_inside h hr k.isLt, ?_,
      changesOnly_writeBytes h hr⟩
    rw [memRead_ok hr, Memory.readBytes_writeBytes h hr]
  · intro hne hout
    have hr : ¬(bytes.length = 0 ∨ addr.toNat + bytes.length ≤ 4096) := by
      rw [List.length_eq_zero_iff, not_or]
      exact ⟨hne, by omega⟩
    exact ⟨memWrite_error hr, memRead_error hr⟩

/-! ## Construction (R42, R240, R241) -/

/-- No glyph lies at or above 0x050 (R43). -/
theorem memBackground_eq_zero {a : Nat} (ha : 80 ≤ a) : memBackground a = 0 := List.getD_eq_default _ _ ha

/-- What every byte reads as after construction. -/
theorem read_constructedMemory (glyphs : Vector Byte 80) {rom : List Byte} (hrom : rom.length ≤ 3584) (a : Nat) :
    (Memory.writeBytes (Memory.writeBytes [] 0 glyphs.toList) Config.progBase rom).read a =
      if 0x200 ≤ a ∧ a < 0x200 + rom.length then rom.getD (a - 0x200) 0
      else if a < 80 then glyphs.toList.getD a 0 else 0 := by
  have hglyphs : 0 + glyphs.toList.length ≤ Config.memSize := by simp [Config.memSize]
  have hfits : Config.progBase + rom.length ≤ Config.memSize := Nat.add_le_add_left hrom Config.progBase
  rw [Memory.read_writeBytes (Memory.writeBytes_wf rfl hglyphs) hfits, Memory.read_writeBytes rfl hglyphs, Config.progBase,
    Vector.length_toList]
  by_cases ha : a < 80
  · simp [ha]
  · simp [ha, Memory.read, memBackground_eq_zero (Nat.le_of_not_lt ha)]

/-- Settles O13: memory by what it reads as after the two loads, every other piece by its value in `State.reset`. -/
theorem constructSetsEveryPieceOfState : Obligations.ConstructSetsEveryPieceOfState := by
  intro glyphs rom draws hrom
  have hmem := read_constructedMemory glyphs hrom
  refine ⟨_, construct_ok glyphs draws hrom, ?_, ?_, ?_, ?_, ?_, ?_, rfl, rfl, ?_, rfl, rfl, rfl, ?_,
    Framebuffer.pixel_blank, rfl, rfl, rfl⟩
  · rintro s rfl
    rw [deliver, construct_ok glyphs s.draws hrom, settle_next]
  · intro k
    rw [State.byteAt, hmem, if_neg (by omega), if_pos k.isLt]
    simp
  · intro a hlo hhi
    rw [State.byteAt, hmem, if_neg (by omega), if_neg (by omega)]
  · intro k
    rw [State.byteAt, hmem, if_pos (by omega)]
    simp
  · intro a hlo _
    rw [State.byteAt, hmem, if_neg (by omega), if_neg (by omega)]
  · intro r
    simp [State.reg, State.reset]
  · intro k
    simp [State.reset]
  · intro k
    simp [State.reset]

/-- The default glyph table is what the empty memory list already reads as, so writing it lists nothing. -/
theorem writeBytes_defaultGlyphs : Memory.writeBytes [] 0 defaultGlyphs = [] := by
  have hlen : 0 + defaultGlyphs.length ≤ Config.memSize := by decide
  refine Memory.eq_of_read_eq (lo := 0) (Memory.writeBytes_wf rfl hlen) rfl fun a => ?_
  rw [Memory.read_writeBytes rfl hlen]
  split <;> rfl

/-- Settles O15: the default glyph table lists nothing. -/
theorem resetIsTheEmptyConstruction : Obligations.ResetIsTheEmptyConstruction := by
  refine ⟨?_, rfl, rfl⟩
  rw [construct_ok defaultGlyphTable 0 (Nat.zero_le _)]
  show Host.Outcome.next { State.reset with mem := Memory.writeBytes [] 0 defaultGlyphs } = .next State.reset
  rw [writeBytes_defaultGlyphs]
  rfl

/-! ## Who may change memory (R56) -/

/-- A byte an instruction changed is one FX33 or FX55 stores to (R143, R144). -/
theorem exec_byteAt {i : Instr} {s t : State} (hwf : s.mem.wf = true) (h : exec i s = .next t) {a : Nat}
    (ha : t.byteAt a ≠ s.byteAt a) :
    (∃ x, i = .bcd x ∧ s.i.toNat ≤ a ∧ a ≤ s.i.toNat + 2) ∨
    (∃ x : Reg, i = .regDump x ∧ s.i.toNat ≤ a ∧ a ≤ s.i.toNat + x.val) := by
  cases effect_of_exec h with
  | store _ bytes hi hr =>
    have hin : s.i.toNat ≤ a ∧ a < s.i.toNat + bytes.length := by
      by_contra hout
      exact ha (Memory.read_writeBytes_outside hwf hr hout)
    rcases hi with ⟨x, rfl, rfl⟩ | ⟨x, rfl, rfl⟩
    · exact .inl ⟨x, rfl, hin.1, Nat.le_of_lt_succ hin.2⟩
    · rw [State.regList_length] at hin
      exact .inr ⟨x, rfl, hin.1, Nat.le_of_lt_succ hin.2⟩
  | _ => exact absurd rfl ha

theorem poll_mem (s : State) : (poll s).mem = s.mem := by
  rcases poll_cases s with h | ⟨k, -, h⟩
  · rw [h]
  · rw [h]
    rfl

/-- Settles O21: of the events other than construction only a step writes memory, and it does so by executing FX33 or
FX55. -/
theorem memoryChangesOnlyByBcdAndRegDump : Obligations.MemoryChangesOnlyByBcdAndRegDump := by
  intro e s hwf hne
  cases e with
  | construct glyphs rom => exact absurd rfl (hne glyphs rom)
  | step =>
    refine ⟨fun a => ?_, absurd rfl⟩
    refine settle_state_of (P := fun u => u.byteAt a ≠ s.byteAt a → _) (absurd rfl) fun t ht ha => ?_
    rcases step_next_cases ht with ⟨-, rfl⟩ | ⟨hm, hp, hx⟩
    · exact absurd (by rw [State.byteAt, poll_mem, State.byteAt]) ha
    · exact ⟨rfl, hm, hp, exec_byteAt hwf hx ha⟩
  | tick | setKey | clearDirty | snapshot | isDirty => exact ⟨fun _ => absurd rfl, fun _ _ => ⟨rfl, rfl⟩⟩

/-! ## When an operation raises (R200 to R203, R207) -/

theorem popStack_eq_error {s : State} {f : Fault} :
    popStack s = .error f ↔ s.sp.val = 0 ∧ f = .stackUnderflow s.pc := by
  by_cases h : 0 < s.sp.val
  · simp [popStack_ok h, Nat.ne_of_gt h]
  · simp [popStack_error h, Nat.eq_zero_of_not_pos h, eq_comm]

theorem pushStack_eq_error {s : State} {w : Word} {f : Fault} :
    pushStack s w = .error f ↔ s.sp.val = 16 ∧ f = .stackOverflow s.pc := by
  by_cases h : s.sp.val < 16
  · simp [pushStack_ok w h, Nat.ne_of_lt h]
  · have h16 : s.sp.val = 16 := by omega
    simp [pushStack_error w h, h16, eq_comm]

theorem keyIndex_eq_error {s : State} {x : Reg} {f : Fault} :
    keyIndex s x = .error f ↔ 15 < (s.reg x).toNat ∧ f = .addressOutOfRange (.key (s.reg x)) := by
  by_cases h : (s.reg x).toNat < 16
  · simp [keyIndex_ok h, Nat.not_lt.2 (Nat.le_of_lt_succ h)]
  · simp [keyIndex_error h, Nat.lt_of_succ_le (Nat.le_of_not_lt h), eq_comm]

theorem memRead_eq_error {s : State} {addr : Word} {n : Nat} {f : Fault} :
    memRead s addr n = .error f ↔ (n ≠ 0 ∧ 4096 < addr.toNat + n) ∧ f = .addressOutOfRange (.data addr) := by
  rw [← Nat.not_le, ← not_or]
  by_cases h : n = 0 ∨ addr.toNat + n ≤ 4096
  · simp only [memRead_ok h, h, not_true_eq_false, false_and, reduceCtorEq]
  · simp only [memRead_error h, h, not_false_eq_true, true_and, Except.error.injEq]
    exact eq_comm

theorem memWrite_eq_error {s : State} {addr : Word} {bytes : List Byte} {f : Fault} :
    memWrite s addr bytes = .error f ↔
      (bytes.length ≠ 0 ∧ 4096 < addr.toNat + bytes.length) ∧ f = .addressOutOfRange (.data addr) := by
  rw [← Nat.not_le, ← not_or]
  by_cases h : bytes.length = 0 ∨ addr.toNat + bytes.length ≤ 4096
  · simp only [memWrite_ok h, h, not_true_eq_false, false_and, reduceCtorEq]
  · simp only [memWrite_error h, h, not_false_eq_true, true_and, Except.error.injEq]
    exact eq_comm

/-! ## When an instruction raises -/

/-- `i` executed in `s` fails with `f`, by the conditions the spec lists (R201, R202, R203, R207). -/
def Raises (s : State) (f : Fault) : Instr → Prop
  | .ret => s.sp.val = 0 ∧ f = .stackUnderflow s.pc
  | .call _ => s.sp.val = 16 ∧ f = .stackOverflow s.pc
  | .skipKey x | .skipNokey x => 15 < (s.reg x).toNat ∧ f = .addressOutOfRange (.key (s.reg x))
  | .draw _ _ n => n ≠ 0 ∧ 0xFFF < s.i.toNat + n.toNat - 1 ∧ f = .addressOutOfRange (.data s.i)
  | .bcd _ => 0xFFF < s.i.toNat + 2 ∧ f = .addressOutOfRange (.data s.i)
  | .regDump x | .regLoad x => 0xFFF < s.i.toNat + x.val ∧ f = .addressOutOfRange (.data s.i)
  | _ => False

/-- Where all that follows an operation succeeds, the failure is the operation's. -/
theorem orRaise_next_eq_fault {α : Type} {r : Except Fault α} {k : α → State} {f : Fault} :
    orRaise r (fun a => .next (k a)) = .fault f ↔ r = .error f := by
  simp [orRaise_eq_fault]

/-- An instruction fails exactly where the one operation of it that may raise does. -/
theorem exec_eq_fault {i : Instr} {s : State} {f : Fault} : exec i s = .fault f ↔ Raises s f i := by
  cases i with
  | ret => exact orRaise_next_eq_fault.trans popStack_eq_error
  | call nnn => exact orRaise_next_eq_fault.trans pushStack_eq_error
  | skipKey x | skipNokey x => exact orRaise_next_eq_fault.trans keyIndex_eq_error
  | draw x y n =>
    have hn : n.toNat ≠ 0 ↔ n ≠ 0 := not_congr (BitVec.toNat_inj (y := 0))
    refine (orRaise_next_eq_fault.trans memRead_eq_error).trans ?_
    rw [hn, and_assoc, Raises]
    exact and_congr_right fun _ => and_congr_left fun _ => by omega
  | bcd x =>
    refine (orRaise_next_eq_fault.trans memWrite_eq_error).trans (and_congr_left fun _ => ?_)
    have hlen : (decimalDigits (s.reg x)).length = 3 := rfl
    rw [hlen]
    omega
  | regDump x =>
    refine (orRaise_next_eq_fault.trans memWrite_eq_error).trans (and_congr_left fun _ => ?_)
    rw [State.regList_length]
    omega
  | regLoad x =>
    refine (orRaise_next_eq_fault.trans memRead_eq_error).trans (and_congr_left fun _ => ?_)
    omega
  | clear | jump | skipEqLit | skipNeLit | skipEqReg | setLit | addLit | assign | orReg | andReg | xorReg | addReg | subReg
  | shiftRight | subRev | shiftLeft | skipNeReg | setIndex | jumpOffset | random | getDelay | waitKey | setDelay | setSound
  | addIndex | glyphAddr | unknown => exact ⟨nofun, False.elim⟩

/-- A step fails in its fetch or in the instruction it executes, never in a poll (R80, R81, R88). -/
theorem step_eq_fault {s : State} {f : Fault} :
    step s = .fault f ↔ s.mode = .running ∧
      ((4094 < s.pc.toNat ∧ f = .addressOutOfRange (.fetch s.pc)) ∨
       (s.pc.toNat ≤ 4094 ∧ Raises s f (decode (fetchWord s)))) := by
  cases hm : s.mode with
  | awaitingKey => simp [step_waiting hm]
  | running =>
    by_cases hp : s.pc.toNat ≤ 4094
    · simp [step_running hm hp, exec_eq_fault, hp, Nat.not_lt.2 hp]
    · simp [step_beyond hm hp, hp, Nat.lt_of_not_le hp, eq_comm]

/-- Settles O9: the fetch raises by PC alone, and for each instruction at most one of the listed cases names it, which is then
its `Raises`. -/
theorem stepFaultsExactlyWhenTheSpecSays : Obligations.StepFaultsExactlyWhenTheSpecSays := by
  intro s f
  rw [step_eq_fault]
  generalize decode (fetchWord s) = i
  cases i <;> simp [Raises]

end Sys2Proof.Machine

/-! # Encoding (30_encoding.md): decode and encode are inverse, and agree with the opcode table -/

namespace Sys2Proof

/-! ## The rows of the catalogue (R62, R64) -/

theorem fieldOp_mask : ∀ r ∈ opcodeRows, fieldOp r.mask = BitVec.allOnes 4 := by decide

/-- Two rows whose required bits agree wherever both masks look are one row. -/
theorem opcodeRows_disjoint : ∀ r ∈ opcodeRows, ∀ r' ∈ opcodeRows, r.bits &&& r'.mask = r'.bits &&& r.mask → r = r' := by
  decide

theorem OpcodeRow.selects_iff {r : OpcodeRow} {w : Word} : r.selects w = true ↔ w &&& r.mask = r.bits := beq_iff_eq

/-- No word selects two rows. -/
theorem eq_of_selects {r r' : OpcodeRow} {w : Word} (hr : r ∈ opcodeRows) (hr' : r' ∈ opcodeRows)
    (h : r.selects w = true) (h' : r'.selects w = true) : r = r' := by
  rw [OpcodeRow.selects_iff] at h h'
  apply opcodeRows_disjoint r hr r' hr'
  rw [← h, ← h', BitVec.and_assoc, BitVec.and_assoc, BitVec.and_comm r.mask]

/-- Where a row's mask keeps a field whole, a word that selects the row has the row's field. -/
theorem extractLsb'_eq_of_selects {r : OpcodeRow} {w : Word} (h : r.selects w = true) {lo k : Nat}
    (hmask : r.mask.extractLsb' lo k = BitVec.allOnes k) : w.extractLsb' lo k = r.bits.extractLsb' lo k := by
  rw [← OpcodeRow.selects_iff.1 h, BitVec.extractLsb'_and, hmask, BitVec.and_allOnes]

theorem fieldOp_eq_of_selects {r : OpcodeRow} {w : Word} (hr : r ∈ opcodeRows) (h : r.selects w = true) :
    fieldOp w = fieldOp r.bits := extractLsb'_eq_of_selects h (fieldOp_mask r hr)

theorem isUnknownWord_iff {w : Word} : isUnknownWord w = true ↔ ∀ r ∈ opcodeRows, r.selects w = false := by
  simp [isUnknownWord]

/-- In a family whose rows all fix the low `k` bits, to one of `subs`, a word with other low bits selects no row. -/
theorem isUnknownWord_of_low_bits {w : Word} {op k : Nat} (subs : List Nat) (hop : (fieldOp w).toNat = op)
    (htable : ∀ r ∈ opcodeRows, (fieldOp r.bits).toNat = op →
      r.mask.extractLsb' 0 k = BitVec.allOnes k ∧ (r.bits.extractLsb' 0 k).toNat ∈ subs)
    (hlow : (w.extractLsb' 0 k).toNat ∉ subs) : isUnknownWord w = true := by
  refine isUnknownWord_iff.2 fun r hr => eq_false_of_ne_true fun hsel => hlow ?_
  rw [fieldOp_eq_of_selects hr hsel] at hop
  obtain ⟨hmask, hmem⟩ := htable r hr hop
  rwa [extractLsb'_eq_of_selects hsel hmask]

/-! ## A decoded instruction is well formed (R65, R66, R82)

Only the default case of a family answers the fallback: there the word's low digits are none of those that the family's
rows fix. -/

theorem wf_decodeFamily0 {w : Word} (h : (fieldOp w).toNat = 0x0) : (decodeFamily0 w).wf = true := by
  unfold decodeFamily0
  split
  case h_3 hE0 hEE =>
    exact isUnknownWord_of_low_bits (k := 12) [0x0E0, 0x0EE] h (by decide)
      (by simpa [fieldNNN] using ⟨hE0, hEE⟩)
  all_goals rfl

theorem wf_decodeFamily5 {w : Word} (h : (fieldOp w).toNat = 0x5) : (decodeFamily5 w).wf = true := by
  unfold decodeFamily5
  split
  case h_2 h0 => exact isUnknownWord_of_low_bits (k := 4) [0x0] h (by decide) (by simpa [fieldN] using h0)
  all_goals rfl

theorem wf_decodeFamily8 {w : Word} (h : (fieldOp w).toNat = 0x8) : (decodeFamily8 w).wf = true := by
  unfold decodeFamily8
  split
  case h_10 =>
    exact isUnknownWord_of_low_bits (k := 4) [0, 1, 2, 3, 4, 5, 6, 7, 0xE] h (by decide) (by simp_all [fieldN])
  all_goals rfl

theorem wf_decodeFamily9 {w : Word} (h : (fieldOp w).toNat = 0x9) : (decodeFamily9 w).wf = true := by
  unfold decodeFamily9
  split
  case h_2 h0 => exact isUnknownWord_of_low_bits (k := 4) [0x0] h (by decide) (by simpa [fieldN] using h0)
  all_goals rfl

theorem wf_decodeFamilyE {w : Word} (h : (fieldOp w).toNat = 0xE) : (decodeFamilyE w).wf = true := by
  unfold decodeFamilyE
  split
  case h_3 h9E hA1 =>
    exact isUnknownWord_of_low_bits (k := 8) [0x9E, 0xA1] h (by decide)
      (by simpa [fieldNN] using ⟨h9E, hA1⟩)
  all_goals rfl

theorem wf_decodeFamilyF {w : Word} (h : (fieldOp w).toNat = 0xF) : (decodeFamilyF w).wf = true := by
  unfold decodeFamilyF
  split
  case h_10 =>
    exact isUnknownWord_of_low_bits (k := 8) [0x07, 0x0A, 0x15, 0x18, 0x1E, 0x29, 0x33, 0x55, 0x65] h (by decide)
      (by simp_all [fieldNN])
  all_goals rfl

theorem wf_decode (w : Word) : (decode w).wf = true := by
  unfold decode
  split
  case h_1 h => exact wf_decodeFamily0 h
  case h_6 h => exact wf_decodeFamily5 h
  case h_9 h => exact wf_decodeFamily8 h
  case h_10 h => exact wf_decodeFamily9 h
  case h_15 h => exact wf_decodeFamilyE h
  case h_16 =>
    simp only [imp_false] at *
    have hlt := (fieldOp w).isLt
    exact wf_decodeFamilyF (by omega)
  all_goals rfl

/-- Settles O3: only a word that selects no row becomes the fallback, and every digit of the word comes back. -/
theorem encodeOfDecodeIsIdentity : Obligations.EncodeOfDecodeIsIdentity := fun w => ⟨wf_decode w, encode_decode w⟩

/-! ## The row of an instruction, and of the word it is decoded from -/

theorem row_mem {i : Instr} {r : OpcodeRow} (h : i.row = some r) : r ∈ opcodeRows := by
  cases i with
  | unknown w => cases h
  | _ => cases h; decide

theorem wf_of_row {i : Instr} {r : OpcodeRow} (h : i.row = some r) : i.wf = true := by
  cases i with
  | unknown w => cases h
  | _ => rfl

theorem row_eq_none {i : Instr} (h : i.row = none) : ∃ w, i = .unknown w := by
  cases i with
  | unknown w => exact ⟨w, rfl⟩
  | _ => cases h

theorem rowMatch (i : Instr) : Laws.RowMatch.Statement i :=
  match i with
  | .clear => Laws.RowMatch.clear
  | .ret => Laws.RowMatch.ret
  | .jump nnn => Laws.RowMatch.jump nnn
  | .call nnn => Laws.RowMatch.call nnn
  | .skipEqLit x nn => Laws.RowMatch.skipEqLit x nn
  | .skipNeLit x nn => Laws.RowMatch.skipNeLit x nn
  | .skipEqReg x y => Laws.RowMatch.skipEqReg x y
  | .setLit x nn => Laws.RowMatch.setLit x nn
  | .addLit x nn => Laws.RowMatch.addLit x nn
  | .assign x y => Laws.RowMatch.assign x y
  | .orReg x y => Laws.RowMatch.orReg x y
  | .andReg x y => Laws.RowMatch.andReg x y
  | .xorReg x y => Laws.RowMatch.xorReg x y
  | .addReg x y => Laws.RowMatch.addReg x y
  | .subReg x y => Laws.RowMatch.subReg x y
  | .shiftRight x y => Laws.RowMatch.shiftRight x y
  | .subRev x y => Laws.RowMatch.subRev x y
  | .shiftLeft x y => Laws.RowMatch.shiftLeft x y
  | .skipNeReg x y => Laws.RowMatch.skipNeReg x y
  | .setIndex nnn => Laws.RowMatch.setIndex nnn
  | .jumpOffset nnn => Laws.RowMatch.jumpOffset nnn
  | .random x nn => Laws.RowMatch.random x nn
  | .draw x y n => Laws.RowMatch.draw x y n
  | .skipKey x => Laws.RowMatch.skipKey x
  | .skipNokey x => Laws.RowMatch.skipNokey x
  | .getDelay x => Laws.RowMatch.getDelay x
  | .waitKey x => Laws.RowMatch.waitKey x
  | .setDelay x => Laws.RowMatch.setDelay x
  | .setSound x => Laws.RowMatch.setSound x
  | .addIndex x => Laws.RowMatch.addIndex x
  | .glyphAddr x => Laws.RowMatch.glyphAddr x
  | .bcd x => Laws.RowMatch.bcd x
  | .regDump x => Laws.RowMatch.regDump x
  | .regLoad x => Laws.RowMatch.regLoad x
  | .unknown w => Laws.RowMatch.unknown w

theorem selects_encode_of_row {i : Instr} {r : OpcodeRow} (h : i.row = some r) : r.selects (encode i) = true := by
  simpa only [h] using rowMatch i (wf_of_row h)

theorem selects_of_row_decode {w : Word} {r : OpcodeRow} (h : (decode w).row = some r) : r.selects w = true := by
  simpa only [encode_decode] using selects_encode_of_row h

/-- A word decoded to the fallback is the word the fallback carries, and selects no row. -/
theorem unknown_of_row_decode {w : Word} (h : (decode w).row = none) : decode w = .unknown w ∧ isUnknownWord w = true := by
  obtain ⟨v, hv⟩ := row_eq_none h
  have hw : v = w := by simpa only [hv, encode] using encode_decode w
  subst hw
  exact ⟨hv, by simpa only [hv, Instr.wf] using wf_decode v⟩

theorem decode_eq_unknown_iff {w : Word} : decode w = .unknown w ↔ isUnknownWord w = true := by
  constructor
  · intro h
    exact (unknown_of_row_decode (by rw [h, Instr.row])).2
  · intro h
    cases hrow : (decode w).row with
    | none => exact (unknown_of_row_decode hrow).1
    | some r => exact absurd (selects_of_row_decode hrow) (by simp [isUnknownWord_iff.1 h r (row_mem hrow)])

theorem selects_iff_row_decode {w : Word} {r : OpcodeRow} (hr : r ∈ opcodeRows) :
    r.selects w = true ↔ (decode w).row = some r := by
  refine ⟨fun hsel => ?_, selects_of_row_decode⟩
  cases hrow : (decode w).row with
  | none => exact absurd hsel (by simp [isUnknownWord_iff.1 (unknown_of_row_decode hrow).2 r hr])
  | some r' => rw [eq_of_selects hr (row_mem hrow) hsel (selects_of_row_decode hrow)]

/-- Settles O4: a decoded word selects its instruction's row, the rows are disjoint, and the fallback's words select
none. -/
theorem decodeSelectsTheMatchingRow : Obligations.DecodeSelectsTheMatchingRow := fun _ =>
  ⟨fun _ => selects_iff_row_decode, fun _ hr _ hr' => eq_of_selects hr hr',
    isUnknownWord_iff.symm.trans decode_eq_unknown_iff.symm⟩

/-! ## Decoding an encoded instruction (R61 to R64) -/

/-- The family of each encoded word sends `decode` to the arm of its instruction, which reads back the fields; the
fallback's word selects no row. -/
theorem decode_encode {i : Instr} (h : i.wf = true) : decode (encode i) = i := by
  cases i with
  | unknown w => exact decode_eq_unknown_iff.2 h
  | clear | ret => decide
  | jump | call | setIndex | jumpOffset => simp [encode, decode, fieldOp_encodeNNN, fieldNNN_encodeNNN]
  | skipEqLit | skipNeLit | setLit | addLit | random =>
    simp [encode, decode, fieldOp_encodeXNN, fieldX_encodeXNN, fieldNN_encodeXNN]
  | draw => simp [encode, decode, fieldOp_encodeXYN, fieldX_encodeXYN, fieldY_encodeXYN, fieldN_encodeXYN]
  | skipEqReg =>
    simp [encode, decode, decodeFamily5, fieldOp_encodeXYN, fieldX_encodeXYN, fieldY_encodeXYN, fieldN_encodeXYN]
  | skipNeReg =>
    simp [encode, decode, decodeFamily9, fieldOp_encodeXYN, fieldX_encodeXYN, fieldY_encodeXYN, fieldN_encodeXYN]
  | assign | orReg | andReg | xorReg | addReg | subReg | shiftRight | subRev | shiftLeft =>
    simp [encode, decode, decodeFamily8, fieldOp_encodeXYN, fieldX_encodeXYN, fieldY_encodeXYN, fieldN_encodeXYN]
  | skipKey | skipNokey =>
    simp [encode, decode, decodeFamilyE, fieldOp_encodeXNN, fieldX_encodeXNN, fieldNN_encodeXNN]
  | getDelay | waitKey | setDelay | setSound | addIndex | glyphAddr | bcd | regDump | regLoad =>
    simp [encode, decode, decodeFamilyF, fieldOp_encodeXNN, fieldX_encodeXNN, fieldNN_encodeXNN]

/-- Settles O2, by cases on the instruction. -/
theorem decodeOfEncodeIsIdentity : Obligations.DecodeOfEncodeIsIdentity := fun _ => decode_encode

/-- Settles O1: the words are closed, so each is decoded by evaluation. -/
theorem decodedWordsOfTheSpec : Obligations.DecodedWordsOfTheSpec := by
  unfold Obligations.DecodedWordsOfTheSpec
  decide

end Sys2Proof

namespace Sys2Proof.Machine

/-! ## The fallback (R66, R85, R204) -/

theorem changesOnly_advance (s : State) : ChangesOnly (fun p => p = .pc) s s.advance := by
  intro p hp
  cases p with
  | pc => exact absurd rfl hp
  | _ => rfl

theorem stepOutputs_running {s : State} (hm : s.mode = .running) (hp : s.pc.toNat ≤ Config.fetchMax) :
    stepOutputs s = instrOutputs (decode (fetchWord s)) s.pc := by
  simp only [stepOutputs, hm, fetch_ok hp]

/-- Settles O52: the word decodes to the fallback, which only advances PC and emits the one report. -/
theorem unknownWordIsAReportedNoOp : Obligations.UnknownWordIsAReportedNoOp := by
  refine ⟨fun _ => decode_eq_unknown_iff.2, fun _ s => ⟨s.advance, rfl, rfl, changesOnly_advance s⟩, ?_⟩
  intro s hm hp hu
  have hd : decode (fetchWord s) = .unknown (fetchWord s) := decode_eq_unknown_iff.2 hu
  have hx : exec (.unknown (fetchWord s)) s = .next s.advance := rfl
  rw [deliver, step_running hm hp, stepOutputs_running hm hp, hd, hx, settle_next]
  exact ⟨rfl, rfl⟩

end Sys2Proof.Machine

/-! # The step cycle (40_step_cycle.md): the fetch, what a step runs and answers, the PC policy, the poll -/

namespace Sys2Proof.Machine

/-! ## The fetch (R44, R81) -/

theorem wordOfBytes_toNat (hi lo : Byte) : (wordOfBytes hi lo).toNat = 256 * hi.toNat + lo.toNat := by
  rw [wordOfBytes, BitVec.toNat_append, ← Nat.shiftLeft_add_eq_or_of_lt lo.isLt, Nat.shiftLeft_eq, Nat.mul_comm]

/-- Settles O6: the one bound on PC decides between the word and the error, and a failing step leaves the machine as it was. -/
theorem fetchIsBoundedAndBigEndian : Obligations.FetchIsBoundedAndBigEndian := by
  refine fun s => ⟨fun hp => ⟨fetchWord s, fetch_ok hp, wordOfBytes_toNat _ _⟩, fun hp => ?_⟩
  have hbeyond : ¬s.pc.toNat ≤ Config.fetchMax := Nat.not_le.2 hp
  refine ⟨fetch_error hbeyond, fun hm => ⟨step_beyond hm hbeyond, ?_⟩⟩
  rw [deliver, step_beyond hm hbeyond, settle_fault]

/-! ## What a running step executes (R80, R82) -/

theorem step_of_decode {i : Instr} {s : State} (hm : s.mode = .running) (hp : s.pc.toNat ≤ Config.fetchMax)
    (hd : decode (fetchWord s) = i) : step s = exec i s ∧ stepOutputs s = instrOutputs i s.pc :=
  hd ▸ ⟨step_running hm hp, stepOutputs_running hm hp⟩

theorem decodeBytes_pair (hi lo : Byte) : decodeBytes [hi, lo] = .ok (decode (wordOfBytes hi lo), []) := rfl

theorem wordOfBytes_of_encodeBytes {hi lo : Byte} {i : Instr} (h : [hi, lo] = encodeBytes i) :
    wordOfBytes hi lo = encode i := by
  cases h
  exact wordOfBytes_bytesOfWord _

/-- Settles O5: both premises say that the fetched word decodes to `i`, the second since decoding undoes encoding. -/
theorem stepRunsTheDecodedInstruction : Obligations.StepRunsTheDecodedInstruction := by
  refine fun i s hm hp => ⟨fun h => ?_, fun hwf h => ?_⟩
  · rw [decodeBytes_pair] at h
    cases h
    exact step_of_decode hm hp rfl
  · have hd : decode (fetchWord s) = i := (congrArg decode (wordOfBytes_of_encodeBytes h)).trans (decode_encode hwf)
    exact (step_of_decode hm hp hd).1

/-! ## What a step answers (R86) -/

theorem orRaise_next_ne_refused {α : Type} {r : Except Fault α} {k : α → State} {q : Refusal} :
    orRaise r (fun a => .next (k a)) ≠ .refused q := by
  simp [orRaise_eq_refused]

/-- Every instruction has a meaning: no arm refuses. -/
theorem exec_ne_refused {i : Instr} {s : State} {q : Refusal} : exec i s ≠ .refused q := by
  cases i with
  | ret | call | draw | skipKey | skipNokey | bcd | regDump | regLoad => exact orRaise_next_ne_refused
  | _ => nofun

theorem step_ne_refused {s : State} {q : Refusal} : step s ≠ .refused q := by
  intro h
  cases hm : s.mode with
  | awaitingKey => cases (step_waiting hm).symm.trans h
  | running =>
    by_cases hp : s.pc.toNat ≤ Config.fetchMax
    · exact exec_ne_refused ((step_running hm hp).symm.trans h)
    · cases (step_beyond hm hp).symm.trans h

/-- No instruction raises the error of construction (R205). -/
theorem not_raises_romTooLarge {i : Instr} {s : State} {n : Nat} : ¬Raises s (.romTooLarge n) i := by
  intro h
  cases i with
  | draw =>
    obtain ⟨-, -, hf⟩ := h
    cases hf
  | ret | call | skipKey | skipNokey | bcd | regDump | regLoad =>
    obtain ⟨-, hf⟩ := h
    cases hf
  | _ => exact h

theorem step_ne_romTooLarge {s : State} {n : Nat} : step s ≠ .fault (.romTooLarge n) := by
  intro h
  obtain ⟨-, ⟨-, hf⟩ | ⟨-, hr⟩⟩ := step_eq_fault.1 h
  · cases hf
  · exact not_raises_romTooLarge hr

/-- Settles O8: a step refuses nothing, never answers construction's error, and `deliver` keeps the state before an error. -/
theorem stepReturnsOkOrAnErrorThatChangesNothing : Obligations.StepReturnsOkOrAnErrorThatChangesNothing := by
  refine fun s => ⟨?_, fun t h => ?_, fun f h => ?_⟩
  · cases h : step s with
    | next t => exact .inl ⟨t, rfl⟩
    | refused q => exact absurd h step_ne_refused
    | fault f =>
      cases f with
      | romTooLarge n => exact absurd h step_ne_romTooLarge
      | addressOutOfRange c => exact .inr (.inl ⟨c, rfl⟩)
      | stackOverflow a => exact .inr (.inr (.inl ⟨a, rfl⟩))
      | stackUnderflow a => exact .inr (.inr (.inr ⟨a, rfl⟩))
  · rw [deliver, h, settle_next]
  · rw [deliver, h, settle_fault]

/-! ## The poll (R88, R183) -/

theorem State.reg_setReg_same (s : State) (r : Reg) (b : Byte) : (s.setReg r b).reg r = b := by
  rw [State.reg_setReg, if_pos rfl]

theorem changesOnly_endOfWait (s : State) (b : Byte) :
    ChangesOnly (fun p => p = .v s.waitReg ∨ p = .pc ∨ p = .mode) s
      { (s.setReg s.waitReg b).advance with mode := .running } := by
  intro p hp
  cases p with
  | v q => exact State.reg_setReg_ne s (fun e => hp (.inl (congrArg Piece.v e))) b
  | pc => exact absurd (.inr (.inl rfl)) hp
  | mode => exact absurd (.inr (.inr rfl)) hp
  | _ => rfl

/-- Settles O10: the lowest pressed key is the one that is pressed with none below it, and a poll is decided by it. -/
theorem stepPollsWhileAwaitingKey : Obligations.StepPollsWhileAwaitingKey := by
  refine fun s hm => ⟨fun hnone => ?_, fun k hk hlow => ?_⟩
  · rw [step_waiting hm, poll_of_none (lowestPressed_eq_none.2 hnone)]
  · have hpoll := poll_of_some (lowestPressed_eq_some.2 ⟨hk, hlow⟩)
    have hbyte : (BitVec.ofNat 8 k.val).toNat = k.val := Nat.mod_eq_of_lt (k.isLt.trans (by decide))
    refine ⟨poll s, step_waiting hm, ?_⟩
    rw [hpoll]
    exact ⟨(congrArg BitVec.toNat (State.reg_setReg_same s _ _)).trans hbyte, rfl, rfl, changesOnly_endOfWait s _⟩

/-! ## The PC policy (R83) -/

theorem keyIndex_eq_ok {s : State} {x : Reg} {k : Fin 16} (hk : keyIndex s x = .ok k) :
    ∃ h : (s.reg x).toNat < 16, k = ⟨(s.reg x).toNat, h⟩ := by
  by_cases h : (s.reg x).toNat < 16
  · exact ⟨h, Except.ok.inj (hk.symm.trans (keyIndex_ok h))⟩
  · cases hk.symm.trans (keyIndex_error h)

theorem State.setRegs_pc (s : State) (k : Nat) (bytes : List Byte) : (s.setRegs k bytes).pc = s.pc := by
  rw [State.setRegs_eq]

/-- Settles O7, class by class: explicit target, skip, hold, and the default advance. -/
theorem pcPolicyOfEveryInstruction : Obligations.PcPolicyOfEveryInstruction := by
  intro s t hm hp h
  rw [step_running hm hp] at h
  generalize decode (fetchWord s) = i at h ⊢
  cases i with
  | jump nnn => cases h; exact zextAddr_toNat nnn
  | jumpOffset nnn => cases h; exact zextAddr_add_zextReg_toNat nnn s 0
  | call nnn =>
    obtain ⟨u, -, h⟩ := orRaise_eq_next.1 h
    cases h
    exact zextAddr_toNat nnn
  | ret =>
    obtain ⟨p, hpop, h⟩ := orRaise_eq_next.1 h
    obtain ⟨hsp, rfl⟩ := popStack_eq_ok hpop
    cases h
    rfl
  | skipEqLit | skipNeLit | skipEqReg | skipNeReg => cases h; simp
  | skipKey x | skipNokey x =>
    obtain ⟨k, hk, h⟩ := orRaise_eq_next.1 h
    obtain ⟨hx, rfl⟩ := keyIndex_eq_ok hk
    cases h
    exact ⟨hx, by simp [State.pressed]⟩
  | waitKey x => cases h; rfl
  | draw x y n =>
    obtain ⟨rows, -, h⟩ := orRaise_eq_next.1 h
    cases h
    rfl
  | bcd x | regDump x =>
    obtain ⟨u, hu, h⟩ := orRaise_eq_next.1 h
    obtain ⟨-, rfl⟩ := memWrite_eq_ok hu
    cases h
    rfl
  | regLoad x =>
    obtain ⟨bytes, -, h⟩ := orRaise_eq_next.1 h
    cases h
    exact congrArg (· + 2) (State.setRegs_pc s 0 bytes)
  | _ => cases h; rfl

end Sys2Proof.Machine

/-! # Control transfer (41_control_transfer.md): jumps, the call stack, compare and skip -/

namespace Sys2Proof

/-! ## Decoding a word given by its value (R61, R62, R64) -/

/-- A number that is the value of an instruction's word decodes to that instruction. -/
theorem decode_ofNat {i : Instr} {n : Nat} (hwf : i.wf = true) (hn : (encode i).toNat = n) :
    decode (BitVec.ofNat 16 n) = i := by
  rw [← hn, BitVec.ofNat_toNat, BitVec.setWidth_eq, decode_encode hwf]

/-- The value of a word of format `XY`, with the digits the row fixes taken together. -/
theorem encodeXYN_toNat_of_fixed {op : Nat} (h : op < 16) (x y : Reg) (n : Nibble) :
    (encodeXYN op x y n).toNat = op * 0x1000 + n.toNat + 0x100 * x.val + 0x10 * y.val := by
  rw [encodeXYN_toNat h]
  omega

/-- Families 5 and 9 hold the one row each whose `N` is 0 (R65, R66). -/
theorem decode_eq_unknown_of_fieldN_ne_zero {w : Word} (hop : (fieldOp w).toNat = 0x5 ∨ (fieldOp w).toNat = 0x9)
    (hn : (fieldN w).toNat ≠ 0) : decode w = .unknown w := by
  have hlow : (w.extractLsb' 0 4).toNat ∉ [0] := mt List.mem_singleton.1 hn
  rcases hop with hop | hop <;>
    exact decode_eq_unknown_iff.2 (isUnknownWord_of_low_bits (k := 4) [0] hop (by decide) hlow)

end Sys2Proof

namespace Sys2Proof.Machine

/-! ## What the instructions write -/

theorem changesOnly_setPc (s : State) (w : Word) : ChangesOnly (fun p => p = .pc) s (s.setPc w) := by
  intro p hp
  cases p with
  | pc => exact absurd rfl hp
  | _ => rfl

theorem changesOnly_skipIf (s : State) (c : Bool) : ChangesOnly (fun p => p = .pc) s (s.skipIf c) :=
  changesOnly_setPc s _

/-- A push and a jump leave every stack slot but the one pushed to (R102). -/
theorem changesOnly_pushAndJump (s : State) (h : s.sp.val < 16) (w pc : Word) (sp : Fin 17) :
    ChangesOnly (fun p => p = .stack ⟨s.sp.val, h⟩ ∨ p = .sp ∨ p = .pc) s
      { s with stack := s.stack.set s.sp.val w, sp := sp, pc := pc } := by
  intro p hp
  cases p with
  | stack k =>
    have hne : s.sp.val ≠ k.val := fun e => hp (.inl (congrArg Piece.stack (Fin.ext e.symm)))
    exact Vector.getElem_set_ne h k.isLt hne
  | sp => exact absurd (.inr (.inl rfl)) hp
  | pc => exact absurd (.inr (.inr rfl)) hp
  | _ => rfl

/-- A pop into PC leaves every stack slot, the vacated one included (R100). -/
theorem changesOnly_popIntoPc (s : State) (sp : Fin 17) (pc : Word) :
    ChangesOnly (fun p => p = .sp ∨ p = .pc) s { s with sp := sp, pc := pc } := by
  intro p hp
  cases p with
  | sp => exact absurd (.inl rfl) hp
  | pc => exact absurd (.inr rfl) hp
  | _ => rfl

/-! ## Jumps (R101, R103, R250) -/

theorem setPc_eq_self {s : State} {w : Word} (h : s.pc = w) : s.setPc w = s := by
  rw [← h, State.setPc]

/-- Settles O27: JUMP writes PC alone, and PC's own value where it is there already. -/
theorem jumpSetsPcAlone : Obligations.JumpSetsPcAlone := by
  refine fun nnn s => ⟨decode_ofNat rfl (encodeNNN_toNat (by decide) nnn), s.setPc (zextAddr nnn), rfl,
    zextAddr_toNat nnn, changesOnly_setPc s _, fun h => ?_⟩
  exact setPc_eq_self (BitVec.eq_of_toNat_eq (h.trans (zextAddr_toNat nnn).symm))

/-- Settles O26: the fetched word decodes to the JUMP, which sets PC to the value it has. -/
theorem selfJumpIsAFixedPointOfStep : Obligations.SelfJumpIsAFixedPointOfStep := by
  rintro s ⟨hm, hp, nnn, hw, hpc⟩
  have hstep : step s = .next s := calc
    step s = exec (decode (fetchWord s)) s := step_running hm hp
    _ = exec (.jump nnn) s := by rw [hw, decode_encode rfl]
    _ = .next (s.setPc (zextAddr nnn)) := rfl
    _ = .next s := congrArg Host.Outcome.next (setPc_eq_self hpc)
  exact ⟨hstep, fun ⟨f, hf⟩ => nomatch hstep.symm.trans hf⟩

/-- Settles O31: the sum does not wrap in 16 bits. -/
theorem jumpOffsetAddsVZero : Obligations.JumpOffsetAddsVZero := fun nnn s =>
  ⟨decode_ofNat rfl (encodeNNN_toNat (by decide) nnn), s.setPc (zextAddr nnn + zextReg s 0), rfl,
    zextAddr_add_zextReg_toNat nnn s 0, changesOnly_setPc s _⟩

/-! ## The call stack (R100, R102, R109) -/

theorem exec_call_of_lt {s : State} (nnn : Addr) (h : s.sp.val < 16) :
    exec (.call nnn) s = .next
      { s with stack := s.stack.set s.sp.val (s.pc + 2), sp := ⟨s.sp.val + 1, by omega⟩, pc := zextAddr nnn } := by
  rw [exec, execCall, pushStack_ok _ h, orRaise_ok, State.setPc]

theorem exec_ret_of_pos {s : State} (h : 0 < s.sp.val) :
    exec .ret s = .next { s with sp := ⟨s.sp.val - 1, by omega⟩, pc := s.stack[s.sp.val - 1] } := by
  rw [exec, execRet, popStack_ok h, orRaise_ok, State.setPc]

/-- Settles O28: a free slot decides between the push and the error. -/
theorem callPushesTheReturnAddress : Obligations.CallPushesTheReturnAddress := fun nnn s =>
  ⟨decode_ofNat rfl (encodeNNN_toNat (by decide) nnn),
    fun h => ⟨_, exec_call_of_lt nnn h, Vector.getElem_set_self h, rfl, zextAddr_toNat nnn,
      changesOnly_pushAndJump s h _ _ _⟩,
    fun h => exec_eq_fault.2 ⟨h, rfl⟩⟩

/-- Settles O29: a used slot decides between the pop and the error. -/
theorem returnPopsIntoPc : Obligations.ReturnPopsIntoPc := fun s =>
  ⟨decode_encode (i := .ret) rfl,
    fun h => ⟨_, exec_ret_of_pos h, rfl, rfl, changesOnly_popIntoPc s _ _⟩,
    fun h => exec_eq_fault.2 ⟨h, rfl⟩⟩

/-- Settles O30: at the depth the CALL left, the slot that RETURN pops is the one the CALL pushed to. -/
theorem returnAfterCallGoesToTheNextInstruction : Obligations.ReturnAfterCallGoesToTheNextInstruction := by
  intro nnn s hs
  obtain ⟨-, hcall, -⟩ := callPushesTheReturnAddress nnn s
  obtain ⟨t, ht, hslot, htsp, -, -⟩ := hcall hs
  refine ⟨t, ht, fun u husp hustack => ?_⟩
  have hdepth : u.sp.val = s.sp.val + 1 := (congrArg Fin.val husp).trans htsp
  obtain ⟨-, hret, -⟩ := returnPopsIntoPc u
  obtain ⟨r, hr, hrpc, hrsp, -⟩ := hret (by omega)
  have hpopped : u.stack[s.sp.val] = s.pc + 2 := by
    simpa [hs, hslot] using hustack
  refine ⟨r, hr, ?_, Fin.ext (by omega)⟩
  simpa [hdepth, hpopped] using hrpc

/-! ## Compare and skip (R104 to R108) -/

/-- Settles O32: each skip compares and writes PC alone. -/
theorem compareWithLiteralAndSkip : Obligations.CompareWithLiteralAndSkip := fun x nn s =>
  ⟨decode_ofNat rfl ((encodeXNN_toNat (by decide) x nn).trans (by omega)),
    decode_ofNat rfl ((encodeXNN_toNat (by decide) x nn).trans (by omega)),
    ⟨s.skipIf (s.reg x == nn), rfl, by simp, changesOnly_skipIf s _⟩,
    ⟨s.skipIf (s.reg x != nn), rfl, by simp, changesOnly_skipIf s _⟩⟩

/-- Settles O33: each skip compares and writes PC alone, and the rows of families 5 and 9 fix `N = 0`. -/
theorem compareRegistersAndSkip : Obligations.CompareRegistersAndSkip := by
  refine fun x y s => ⟨decode_ofNat rfl (encodeXYN_toNat_of_fixed (by decide) x y 0),
    decode_ofNat rfl (encodeXYN_toNat_of_fixed (by decide) x y 0), fun w hop hn => ?_,
    ⟨s.skipIf (s.reg x == s.reg y), rfl, by simp, changesOnly_skipIf s _⟩,
    ⟨s.skipIf (s.reg x != s.reg y), rfl, by simp, changesOnly_skipIf s _⟩⟩
  rw [← fieldOp_toNat] at hop
  rw [← fieldN_toNat] at hn
  exact decode_eq_unknown_of_fieldN_ne_zero hop hn

end Sys2Proof.Machine

/-! # Register load, arithmetic, logic, shift and random (42_alu.md) -/

namespace Sys2Proof

/-- The value of a word of format `XNN`, in the order in which the catalogue writes its digits. -/
theorem encodeXNN_toNat_of_fixed {op : Nat} (h : op < 16) (x : Reg) (nn : Byte) :
    (encodeXNN op x nn).toNat = op * 0x1000 + 0x100 * x.val + nn.toNat := by
  rw [encodeXNN_toNat h]
  omega

end Sys2Proof

namespace Sys2Proof.Machine

/-! ## What a result leaves, without and with its flag (R83, R133) -/

theorem changesOnly_setReg_advance (s : State) (x : Reg) (b : Byte) :
    ChangesOnly (fun p => p = .v x ∨ p = .pc) s (s.setReg x b).advance := by
  intro p hp
  cases p with
  | v q => exact State.reg_setReg_ne s (fun e => hp (.inl (congrArg Piece.v e))) b
  | pc => exact absurd (.inr rfl) hp
  | _ => rfl

theorem changesOnly_setResultAndFlag_advance (s : State) (x : Reg) (b : Byte) (f : Bool) :
    ChangesOnly (fun p => p = .v x ∨ p = .v 15 ∨ p = .pc) s (s.setResultAndFlag x b f).advance := by
  intro p hp
  cases p with
  | v q =>
    have hq : ¬(q = x ∨ q = Reg.flag) := fun h =>
      hp (h.elim (fun e => .inl (congrArg Piece.v e)) fun e => .inr (.inl (congrArg Piece.v e)))
    exact State.reg_setResultAndFlag_ne s hq b f
  | pc => exact absurd (.inr (.inr rfl)) hp
  | _ => rfl

theorem changesOnly_drawByte_setReg_advance (s : State) (x : Reg) (b : Byte) :
    ChangesOnly (fun p => p = .v x ∨ p = .pc ∨ p = .draws) s ((drawByte s).2.setReg x b).advance := by
  intro p hp
  cases p with
  | v q => exact State.reg_setReg_ne (drawByte s).2 (fun e => hp (.inl (congrArg Piece.v e))) b
  | pc => exact absurd (.inr (.inl rfl)) hp
  | draws => exact absurd (.inr (.inr rfl)) hp
  | _ => rfl

/-- The flag is what VF holds at the end, whatever the destination is (R133). -/
theorem State.reg_flag_setResultAndFlag (s : State) (x : Reg) (b : Byte) (f : Bool) :
    (s.setResultAndFlag x b f).reg 15 = flagByte f := by
  rw [State.reg_setResultAndFlag, if_pos rfl]

/-- The result stays unless its register is VF (R133). -/
theorem State.reg_setResultAndFlag_result (s : State) {x : Reg} (hx : x ≠ 15) (b : Byte) (f : Bool) :
    (s.setResultAndFlag x b f).reg x = b := by
  rw [State.reg_setResultAndFlag, if_neg hx, if_pos rfl]

/-! ## The flags as arithmetic (R132) -/

theorem flagByte_carryOut (a b : Byte) : flagByte (carryOut a b) = if 255 < a.toNat + b.toNat then 1 else 0 := by
  simp only [flagByte, carryOut, decide_eq_true_eq]

theorem flagByte_noBorrow (a b : Byte) : flagByte (noBorrow a b) = if b.toNat ≤ a.toNat then 1 else 0 := by
  simp only [flagByte, noBorrow, decide_eq_true_eq]

theorem flagByte_toNat (f : Bool) : (flagByte f).toNat = f.toNat := by cases f <;> rfl

theorem flagByte_shiftedOutRight_toNat (a : Byte) : (flagByte (shiftedOutRight a)).toNat = a.toNat % 2 := by
  rw [flagByte_toNat, shiftedOutRight, BitVec.getLsbD, Nat.toNat_testBit, pow_zero, Nat.div_one]

theorem flagByte_shiftedOutLeft_toNat (a : Byte) : (flagByte (shiftedOutLeft a)).toNat = a.toNat / 128 := by
  have := a.isLt
  rw [flagByte_toNat, shiftedOutLeft, BitVec.getLsbD, Nat.toNat_testBit]
  omega

/-! ## The results as arithmetic (R127 to R130) -/

theorem byte_sub_toNat (a b : Byte) : (a - b).toNat = (a.toNat + 256 - b.toNat) % 256 := by
  have := b.isLt
  rw [BitVec.toNat_sub]
  omega

theorem byte_shiftRight_one_toNat (a : Byte) : (a >>> 1).toNat = a.toNat / 2 := by
  rw [BitVec.toNat_ushiftRight, Nat.shiftRight_eq_div_pow, pow_one]

theorem byte_shiftLeft_one_toNat (a : Byte) : (a <<< 1).toNat = 2 * a.toNat % 256 := by
  rw [BitVec.toNat_shiftLeft, Nat.shiftLeft_eq, pow_one, Nat.mul_comm]

/-! ## Load and add of a literal (R120, R121) -/

/-- Settles O34: the literal, or the sum with it, is the one byte written. -/
theorem setAndAddLiteral : Obligations.SetAndAddLiteral := fun x nn s =>
  ⟨decode_ofNat rfl (encodeXNN_toNat_of_fixed (by decide) x nn),
    decode_ofNat rfl (encodeXNN_toNat_of_fixed (by decide) x nn),
    ⟨_, rfl, State.reg_setReg_same s x nn, rfl, changesOnly_setReg_advance s x _⟩,
    ⟨_, rfl, (congrArg BitVec.toNat (State.reg_setReg_same s x _)).trans (BitVec.toNat_add _ _), rfl,
      changesOnly_setReg_advance s x _⟩⟩

/-! ## Copy and bitwise logic (R122 to R125) -/

theorem State.getLsbD_reg_setReg (s : State) (x : Reg) (b : Byte) (k : Nat) :
    ((s.setReg x b).reg x).getLsbD k = b.getLsbD k := by
  rw [State.reg_setReg_same]

/-- Settles O35: the copy or the bitwise result is the one byte written, VF being its own register. -/
theorem copyAndBitwiseLogic : Obligations.CopyAndBitwiseLogic := fun x y s =>
  ⟨decode_ofNat rfl (encodeXYN_toNat_of_fixed (by decide) x y 0x0),
    decode_ofNat rfl (encodeXYN_toNat_of_fixed (by decide) x y 0x1),
    decode_ofNat rfl (encodeXYN_toNat_of_fixed (by decide) x y 0x2),
    decode_ofNat rfl (encodeXYN_toNat_of_fixed (by decide) x y 0x3),
    ⟨_, rfl, State.reg_setReg_same s x _, rfl, changesOnly_setReg_advance s x _⟩,
    ⟨_, rfl, fun k _ => (State.getLsbD_reg_setReg s x _ k).trans BitVec.getLsbD_or, rfl,
      changesOnly_setReg_advance s x _⟩,
    ⟨_, rfl, fun k _ => (State.getLsbD_reg_setReg s x _ k).trans BitVec.getLsbD_and, rfl,
      changesOnly_setReg_advance s x _⟩,
    ⟨_, rfl, fun k _ => (State.getLsbD_reg_setReg s x _ k).trans BitVec.getLsbD_xor, rfl,
      changesOnly_setReg_advance s x _⟩⟩

/-! ## Add, subtract and shift with a flag (R126 to R130, R132, R133) -/

/-- What the five flag-writing instructions share: the flag in VF, the result's value in `V[X]` unless `X = F`, PC by 2, and
nothing else. -/
theorem setResultAndFlag_advance_spec (s : State) (x : Reg) {b : Byte} {f : Bool} {n : Nat} (hb : b.toNat = n) :
    (x ≠ 15 → ((s.setResultAndFlag x b f).advance.reg x).toNat = n) ∧
      (s.setResultAndFlag x b f).advance.pc = s.pc + 2 ∧
      ChangesOnly (fun p => p = .v x ∨ p = .v 15 ∨ p = .pc) s (s.setResultAndFlag x b f).advance :=
  ⟨fun hx => (congrArg BitVec.toNat (State.reg_setResultAndFlag_result s hx b f)).trans hb, rfl,
    changesOnly_setResultAndFlag_advance s x b f⟩

/-- Settles O36: the sum of the two bytes and its carry. -/
theorem addRegSumAndCarry : Obligations.AddRegSumAndCarry := fun x y s =>
  ⟨decode_ofNat rfl (encodeXYN_toNat_of_fixed (by decide) x y 0x4), _, rfl,
    (State.reg_flag_setResultAndFlag s x _ _).trans (flagByte_carryOut _ _),
    setResultAndFlag_advance_spec s x (BitVec.toNat_add _ _)⟩

/-- Settles O37: the difference in either order, and that its minuend is at least its subtrahend. -/
theorem subtractDifferenceAndNoBorrow : Obligations.SubtractDifferenceAndNoBorrow := fun x y s =>
  ⟨decode_ofNat rfl (encodeXYN_toNat_of_fixed (by decide) x y 0x5),
    decode_ofNat rfl (encodeXYN_toNat_of_fixed (by decide) x y 0x7),
    ⟨_, rfl, (State.reg_flag_setResultAndFlag s x _ _).trans (flagByte_noBorrow _ _),
      setResultAndFlag_advance_spec s x (byte_sub_toNat _ _)⟩,
    ⟨_, rfl, (State.reg_flag_setResultAndFlag s x _ _).trans (flagByte_noBorrow _ _),
      setResultAndFlag_advance_spec s x (byte_sub_toNat _ _)⟩⟩

/-- Settles O38: half or twice the old byte, and the bit that left it. -/
theorem shiftsByOneAndTheBitShiftedOut : Obligations.ShiftsByOneAndTheBitShiftedOut := fun x y s =>
  ⟨decode_ofNat rfl (encodeXYN_toNat_of_fixed (by decide) x y 0x6),
    decode_ofNat rfl (encodeXYN_toNat_of_fixed (by decide) x y 0xE),
    ⟨_, rfl, (congrArg BitVec.toNat (State.reg_flag_setResultAndFlag s x _ _)).trans (flagByte_shiftedOutRight_toNat _),
      setResultAndFlag_advance_spec s x (byte_shiftRight_one_toNat _)⟩,
    ⟨_, rfl, (congrArg BitVec.toNat (State.reg_flag_setResultAndFlag s x _ _)).trans (flagByte_shiftedOutLeft_toNat _),
      setResultAndFlag_advance_spec s x (byte_shiftLeft_one_toNat _)⟩⟩

/-! ## Random (R131) -/

theorem getLsbD_of_getLsbD_and {a b : Byte} {k : Nat} (h : (a &&& b).getLsbD k = true) : a.getLsbD k = true := by
  rw [BitVec.getLsbD_and, Bool.and_eq_true] at h
  exact h.1

/-- Settles O39: the byte written is the mask and the drawn byte, so its 1 bits are among the mask's. -/
theorem randomIsADrawnByteUnderTheMask : Obligations.RandomIsADrawnByteUnderTheMask := by
  intro x nn s
  have hreg : ((drawByte s).2.setReg x (nn &&& Config.randomByte s.draws)).reg x = nn &&& Config.randomByte s.draws :=
    State.reg_setReg_same _ _ _
  exact ⟨decode_ofNat rfl (encodeXNN_toNat_of_fixed (by decide) x nn), _, rfl, hreg, rfl,
    fun k hk => getLsbD_of_getLsbD_and ((congrArg (BitVec.getLsbD · k) hreg).symm.trans hk), rfl,
    changesOnly_drawByte_setReg_advance s x _⟩

end Sys2Proof.Machine

/-! # Index register and memory transfer (43_index_memory.md) -/

namespace Sys2Proof

/-- The value of a word of format `X`, with the digits the row fixes taken together. -/
theorem encodeXNN_toNat_of_fixed_low {op : Nat} (h : op < 16) (x : Reg) (nn : Byte) :
    (encodeXNN op x nn).toNat = op * 0x1000 + nn.toNat + 0x100 * x.val := by
  rw [encodeXNN_toNat h]
  omega

end Sys2Proof

namespace Sys2Proof.Machine

/-! ## What a write leaves, followed by the default advance (R83, R146) -/

/-- After a write that `may` allows for, the default advance adds PC alone to what may have changed. -/
theorem ChangesOnly.advance {may may' : Piece → Prop} {s t : State} (h : ChangesOnly may s t)
    (hmay : ∀ p, may p → may' p) (hpc : may' .pc) : ChangesOnly may' s t.advance := by
  intro p hp
  have hsame : p.same s t := h p (mt (hmay p) hp)
  cases p with
  | pc => exact absurd hpc hp
  | _ => exact hsame

theorem changesOnly_setIndex (s : State) (w : Word) : ChangesOnly (fun p => p = .i) s (s.setIndex w) := by
  intro p hp
  cases p with
  | i => exact absurd rfl hp
  | _ => rfl

theorem changesOnly_setIndex_advance (s : State) (w : Word) :
    ChangesOnly (fun p => p = .i ∨ p = .pc) s (s.setIndex w).advance :=
  (changesOnly_setIndex s w).advance (fun _ => .inl) (.inr rfl)

/-- The bytes FX65 has read change no piece of state but the registers up to `V[X]` (R145). -/
theorem changesOnly_setRegs {s : State} {x : Reg} {bytes : List Byte} (hb : memRead s s.i (x.val + 1) = .ok bytes) :
    ChangesOnly (fun p => ∃ k : Reg, p = .v k ∧ k ≤ x) s (s.setRegs 0 bytes) := by
  intro p hp
  cases p with
  | v q => exact State.reg_setRegs_above s (fun hle => hp ⟨q, rfl, hle⟩) hb
  | _ =>
    rw [State.setRegs_eq]
    rfl

/-! ## The index register (R140 to R142) -/

theorem zextReg_toNat (s : State) (r : Reg) : (zextReg s r).toNat = (s.reg r).toNat := by
  have := (s.reg r).isLt
  rw [zextReg, BitVec.toNat_setWidth]
  omega

/-- Five times a byte does not wrap in 16 bits (R142). -/
theorem glyphAddress_toNat (b : Byte) : (glyphAddress b).toNat = 5 * b.toNat := by
  have := b.isLt
  have hfive : (5 : Word).toNat = 5 := rfl
  rw [glyphAddress, BitVec.toNat_mul, BitVec.toNat_setWidth, hfive]
  omega

/-- Settles O40: the literal is the one value written. -/
theorem setIndexLoadsTheLiteral : Obligations.SetIndexLoadsTheLiteral := fun nnn s =>
  ⟨decode_ofNat rfl (encodeNNN_toNat (by decide) nnn), _, rfl, zextAddr_toNat nnn, rfl, changesOnly_setIndex_advance s _⟩

/-- Settles O41: the sum in 16 bits, or the product that fits in them, is the one value written. -/
theorem addIndexAndGlyphAddress : Obligations.AddIndexAndGlyphAddress := by
  intro x s
  have hsum : (s.i + zextReg s x).toNat = (s.i.toNat + (s.reg x).toNat) % 65536 := by
    rw [BitVec.toNat_add, zextReg_toNat]
  exact ⟨decode_ofNat rfl (encodeXNN_toNat_of_fixed_low (by decide) x 0x1E),
    decode_ofNat rfl (encodeXNN_toNat_of_fixed_low (by decide) x 0x29),
    ⟨_, rfl, hsum, rfl, changesOnly_setIndex_advance s _⟩,
    ⟨_, rfl, glyphAddress_toNat _, rfl, changesOnly_setIndex_advance s _⟩⟩

/-! ## Stores (R143, R144) -/

/-- What the two storing instructions share: a run of `n + 1` bytes in range lands at `I`, PC advances by 2, and nothing else
changes. -/
theorem memWrite_advance_spec {s : State} (hwf : s.mem.wf = true) {bytes : List Byte} {n : Nat}
    (hlen : bytes.length = n + 1) (hin : s.i.toNat + n ≤ 0xFFF) :
    ∃ t, orRaise (memWrite s s.i bytes) (fun u => .next u.advance) = .next t ∧
      (∀ k, k ≤ n → t.byteAt (s.i.toNat + k) = bytes.getD k 0) ∧ t.pc = s.pc + 2 ∧
      ChangesOnly (fun p => p = .pc ∨ ∃ a, p = .mem a ∧ s.i.toNat ≤ a ∧ a ≤ s.i.toNat + n) s t := by
  have hr : bytes.length = 0 ∨ s.i.toNat + bytes.length ≤ 4096 := .inr (by omega)
  refine ⟨_, by rw [memWrite_ok hr, orRaise_ok], fun k hk => ?_, rfl,
    (changesOnly_writeBytes hwf hr).advance (fun p ⟨a, hp, hlo, hhi⟩ => .inr ⟨a, hp, hlo, by omega⟩) (.inl rfl)⟩
  have hk' : k < bytes.length := by omega
  exact (Memory.read_writeBytes_inside hwf hr hk').trans (List.getD_eq_getElem _ _ hk').symm

/-- Each decimal digit of a byte fits in a byte (R143). -/
theorem decimalDigits_toNat (b : Byte) :
    ((decimalDigits b).getD 0 0).toNat = b.toNat / 100 ∧ ((decimalDigits b).getD 1 0).toNat = b.toNat / 10 % 10 ∧
      ((decimalDigits b).getD 2 0).toNat = b.toNat % 10 := by
  have hb := b.isLt
  have hfits : ∀ n, n < 256 → (BitVec.ofNat 8 n).toNat = n := fun n hn => Nat.mod_eq_of_lt hn
  exact ⟨hfits _ (by omega), hfits _ (by omega), hfits _ (by omega)⟩

/-- Settles O42: the run stored is the three digits. -/
theorem bcdStoresThreeDigits : Obligations.BcdStoresThreeDigits := by
  refine fun x s hwf => ⟨decode_ofNat rfl (encodeXNN_toNat_of_fixed_low (by decide) x 0x33), fun hin => ?_,
    fun hout => exec_eq_fault.2 ⟨hout, rfl⟩⟩
  obtain ⟨t, ht, hbyte, hpc, hframe⟩ := memWrite_advance_spec (bytes := decimalDigits (s.reg x)) (n := 2) hwf rfl hin
  obtain ⟨hhundreds, htens, hones⟩ := decimalDigits_toNat (s.reg x)
  exact ⟨t, ht, (congrArg BitVec.toNat (hbyte 0 (by decide))).trans hhundreds,
    (congrArg BitVec.toNat (hbyte 1 (by decide))).trans htens,
    (congrArg BitVec.toNat (hbyte 2 (by decide))).trans hones, hpc, hframe⟩

/-- Settles O43: the run stored is the registers up to `V[X]`. -/
theorem regDumpStoresTheRegisters : Obligations.RegDumpStoresTheRegisters := by
  refine fun x s hwf => ⟨decode_ofNat rfl (encodeXNN_toNat_of_fixed_low (by decide) x 0x55), fun hin => ?_,
    fun hout => exec_eq_fault.2 ⟨hout, rfl⟩⟩
  obtain ⟨t, ht, hbyte, hpc, hframe⟩ := memWrite_advance_spec hwf (State.regList_length s (x.val + 1)) hin
  refine ⟨t, ht, fun k hk => ?_, hpc, hframe⟩
  rw [hbyte k.val hk, State.regList_getD s _ _ (Nat.lt_succ_of_le hk), Fin.ofNat_val_eq_self]

/-! ## Loads (R145) -/

/-- Loading the registers up to `V[X]` from the bytes at `a` on: `V[k]` is the byte at `a + k`. -/
theorem State.reg_setRegs_readBytes (s : State) {x k : Reg} (hk : k ≤ x) (m : Memory) (a : Nat) :
    (s.setRegs 0 (m.readBytes a (x.val + 1))).reg k = m.read (a + k.val) := by
  have hlen := Memory.readBytes_length m a (x.val + 1)
  have hlt : k.val < (m.readBytes a (x.val + 1)).length := by
    rw [hlen]
    exact Nat.lt_succ_of_le hk
  rw [State.reg_setRegs s 0 _ (by omega), if_pos (by omega), Nat.sub_zero, List.getD_eq_getElem _ _ hlt,
    Memory.readBytes_getElem]

/-- Settles O44: the bytes read in range fill the registers up to `V[X]` and no other. -/
theorem regLoadReadsTheRegisters : Obligations.RegLoadReadsTheRegisters := by
  refine fun x s => ⟨decode_ofNat rfl (encodeXNN_toNat_of_fixed_low (by decide) x 0x65), fun hin => ?_,
    fun hout => exec_eq_fault.2 ⟨hout, rfl⟩⟩
  have hread : memRead s s.i (x.val + 1) = .ok (s.mem.readBytes s.i.toNat (x.val + 1)) := memRead_ok (.inr (by omega))
  have hexec : exec (.regLoad x) s = .next (s.setRegs 0 (s.mem.readBytes s.i.toNat (x.val + 1))).advance := by
    rw [exec, execRegLoad, hread, orRaise_ok]
  exact ⟨_, hexec, fun k hk => State.reg_setRegs_readBytes s hk _ _, congrArg (· + 2) (State.setRegs_pc s 0 _),
    (changesOnly_setRegs hread).advance (fun _ => .inr) (.inl rfl)⟩

end Sys2Proof.Machine

/-! # Display (44_display.md): CLEAR and DRAW -/

namespace Sys2Proof.Machine

/-! ## What painting changes (R20) -/

theorem changesOnly_paint (s : State) (fb : Framebuffer) :
    ChangesOnly (fun p => (∃ y x, p = .fb y x) ∨ p = .dirty) s (s.paint fb) := by
  intro p hp
  cases p with
  | fb y x => exact absurd (.inl ⟨y, x, rfl⟩) hp
  | dirty => exact absurd (.inr rfl) hp
  | _ => rfl

/-- After a write that `may` allows for, the flag adds VF alone to what may have changed (R12). -/
theorem ChangesOnly.setFlag {may may' : Piece → Prop} {s t : State} (h : ChangesOnly may s t)
    (hmay : ∀ p, may p → may' p) (hflag : may' (.v 15)) (f : Bool) : ChangesOnly may' s (t.setFlag f) := by
  intro p hp
  have hsame : p.same s t := h p (mt (hmay p) hp)
  cases p with
  | v q =>
    have hq : q ≠ Reg.flag := fun e => hp (e ▸ hflag)
    exact (State.reg_setReg_ne t hq _).trans hsame
  | _ => exact hsame

/-- Settles O45: the blank framebuffer is the one value painted. -/
theorem clearBlanksTheFramebuffer : Obligations.ClearBlanksTheFramebuffer := fun s =>
  ⟨decode_ofNat (i := .clear) rfl rfl, _, rfl, Framebuffer.pixel_blank, rfl, rfl,
    (changesOnly_paint s _).advance (fun _ hp => hp.elim .inl fun hd => .inr (.inl hd)) (.inr (.inr rfl))⟩

/-! ## The blit of the sprite in memory (R161 to R164) -/

theorem Memory.getD_readBytes (m : Memory) (a : Nat) {n k : Nat} (h : k < n) :
    (m.readBytes a n).getD k 0 = m.read (a + k) := by
  have hk : k < (m.readBytes a n).length := (Memory.readBytes_length m a n).symm ▸ h
  rw [List.getD_eq_getElem _ _ hk, Memory.readBytes_getElem]

/-- The cells a sprite lands on, read as rows of bytes or straight from memory. -/
theorem covered_readBytes_iff_spriteLands {s : State} {vx vy : Reg} {n : Nibble} {y : Fin 32} {x : Fin 64} :
    Covered (s.reg vx) (s.reg vy) 0 (s.mem.readBytes s.i.toNat n.toNat) y x ↔ s.spriteLands vx vy n y x := by
  rw [Covered, State.spriteLands, Memory.readBytes_length]
  refine exists_congr fun r => and_congr_right fun hr => ?_
  rw [Memory.getD_readBytes _ _ hr, Nat.zero_add]
  simp only [Fin.ext_iff, spriteRow, spriteColumn, Fin.val_ofNat, State.byteAt]

/-- The framebuffer with the `n`-row sprite at `I` blitted onto it, and whether it hit a set cell. -/
def State.blit (s : State) (vx vy : Reg) (n : Nibble) : Framebuffer × Bool :=
  blitRows (s.reg vx) (s.reg vy) 0 (s.mem.readBytes s.i.toNat n.toNat) (s.fb, false)

/-- The state a DRAW with its sprite in range leads to. -/
def State.drawn (s : State) (vx vy : Reg) (n : Nibble) : State :=
  ((s.paint (s.blit vx vy n).1).setFlag (s.blit vx vy n).2).advance

section
variable {vx vy : Reg} {n : Nibble} {s : State}

theorem exec_draw_in_range (h : n = 0 ∨ s.i.toNat + n.toNat - 1 ≤ 0xFFF) :
    exec (.draw vx vy n) s = .next (s.drawn vx vy n) := by
  have hread : memRead s s.i n.toNat = .ok (s.mem.readBytes s.i.toNat n.toNat) :=
    memRead_ok (h.imp (congrArg BitVec.toNat) fun hle => by omega)
  rw [exec, execDraw, hread, orRaise_ok, State.drawn, State.blit]

/-- What `blitRows` does, the sprite being the `n` rows at `I`. -/
theorem State.blit_spec :
    (∀ y x, (s.spriteLands vx vy n y x → (s.blit vx vy n).1.pixel y x = !s.pixel y x) ∧
      (¬s.spriteLands vx vy n y x → (s.blit vx vy n).1.pixel y x = s.pixel y x)) ∧
    ((s.blit vx vy n).2 = true ↔ ∃ y x, s.spriteLands vx vy n y x ∧ s.pixel y x = true) := by
  have hrows : 0 + (s.mem.readBytes s.i.toNat n.toNat).length ≤ 32 := by
    have := n.isLt
    rw [Memory.readBytes_length]
    omega
  have h := blitRows_spec (s.reg vx) (s.reg vy) 0 _ hrows (s.fb, false)
  simp only [covered_readBytes_iff_spriteLands, Bool.false_eq_true, false_or] at h
  exact h

theorem State.pixel_drawn_of_lands {y : Fin 32} {x : Fin 64} (h : s.spriteLands vx vy n y x) :
    (s.drawn vx vy n).pixel y x = !s.pixel y x := (State.blit_spec.1 y x).1 h

theorem State.pixel_drawn_of_not_lands {y : Fin 32} {x : Fin 64} (h : ¬s.spriteLands vx vy n y x) :
    (s.drawn vx vy n).pixel y x = s.pixel y x := (State.blit_spec.1 y x).2 h

theorem State.reg_flag_drawn : (s.drawn vx vy n).reg 15 = flagByte (s.blit vx vy n).2 :=
  State.reg_setFlag _ _ Reg.flag

theorem State.reg_flag_drawn_of_collision (h : ∃ y x, s.spriteLands vx vy n y x ∧ s.pixel y x = true) :
    (s.drawn vx vy n).reg 15 = 1 := by
  rw [State.reg_flag_drawn, State.blit_spec.2.2 h]
  rfl

theorem State.reg_flag_drawn_of_no_collision (h : ∀ y x, s.spriteLands vx vy n y x → s.pixel y x = false) :
    (s.drawn vx vy n).reg 15 = 0 := by
  have hclear : (s.blit vx vy n).2 = false := by
    rw [Bool.eq_false_iff, ne_eq, State.blit_spec.2]
    rintro ⟨y, x, hl, hset⟩
    rw [h y x hl] at hset
    cases hset
  rw [State.reg_flag_drawn, hclear]
  rfl

theorem changesOnly_drawn :
    ChangesOnly (fun p => (∃ y x, p = .fb y x) ∨ p = .v 15 ∨ p = .dirty ∨ p = .pc) s (s.drawn vx vy n) :=
  ((changesOnly_paint s _).setFlag (may' := fun p => (∃ y x, p = .fb y x) ∨ p = .v 15 ∨ p = .dirty)
    (fun _ hp => hp.imp_right .inr) (.inr (.inl rfl)) _).advance
    (fun _ hp => hp.imp_right fun hq => hq.imp_right .inl) (.inr (.inr (.inr rfl)))

/-- A DRAW leaves the sprite and its place alone: memory, `I`, and coordinate registers other than VF (R164). -/
theorem State.spriteLands_drawn (hvx : vx ≠ 15) (hvy : vy ≠ 15) {y : Fin 32} {x : Fin 64} :
    (s.drawn vx vy n).spriteLands vx vy n y x ↔ s.spriteLands vx vy n y x := by
  have hx : (s.drawn vx vy n).reg vx = s.reg vx := State.reg_setReg_ne _ hvx _
  have hy : (s.drawn vx vy n).reg vy = s.reg vy := State.reg_setReg_ne _ hvy _
  have hi : (s.drawn vx vy n).i = s.i := rfl
  have hbyte : (s.drawn vx vy n).byteAt = s.byteAt := rfl
  rw [State.spriteLands, State.spriteLands, hx, hy, hi, hbyte]

/-- A cell the sprite lands on is toggled twice, another one never (R161). -/
theorem State.pixel_drawn_drawn (hvx : vx ≠ 15) (hvy : vy ≠ 15) (y : Fin 32) (x : Fin 64) :
    ((s.drawn vx vy n).drawn vx vy n).pixel y x = s.pixel y x := by
  by_cases h : s.spriteLands vx vy n y x
  · rw [State.pixel_drawn_of_lands ((State.spriteLands_drawn hvx hvy).2 h), State.pixel_drawn_of_lands h, Bool.not_not]
  · rw [State.pixel_drawn_of_not_lands (mt (State.spriteLands_drawn hvx hvy).1 h), State.pixel_drawn_of_not_lands h]

end

/-- The value of DXYN's word (R62). -/
theorem encode_draw_toNat (vx vy : Reg) (n : Nibble) :
    (encode (.draw vx vy n)).toNat = 0xD000 + 0x100 * vx.val + 0x10 * vy.val + n.toNat := by
  rw [encode, encodeXYN_toNat (by decide)]
  omega

/-- Settles O46: no two 1 bits of the sprite land on the same cell, so the blit toggles each cell under one once. -/
theorem drawTogglesTheSpriteCells : Obligations.DrawTogglesTheSpriteCells := fun vx vy n s =>
  ⟨decode_ofNat rfl (encode_draw_toNat vx vy n),
    fun hin => ⟨s.drawn vx vy n, exec_draw_in_range hin, fun _ _ => State.pixel_drawn_of_lands,
      fun _ _ => State.pixel_drawn_of_not_lands, State.reg_flag_drawn_of_collision, State.reg_flag_drawn_of_no_collision,
      rfl, rfl, changesOnly_drawn⟩,
    fun hn hout => exec_eq_fault.2 ⟨hn, hout, rfl⟩⟩

/-- Settles O47: the second DRAW reads the same sprite at the same place, and a clear cell under it was set by the first. -/
theorem drawingTwiceRestoresTheFramebuffer : Obligations.DrawingTwiceRestoresTheFramebuffer := by
  intro vx vy n s hvx hvy hin
  refine ⟨s.drawn vx vy n, (s.drawn vx vy n).drawn vx vy n, exec_draw_in_range hin, exec_draw_in_range hin,
    State.pixel_drawn_drawn hvx hvy, fun hclear ⟨y, x, hl⟩ => ?_⟩
  have hset : (s.drawn vx vy n).pixel y x = true := by
    rw [State.pixel_drawn_of_lands hl, hclear y x hl, Bool.not_false]
  exact ⟨State.reg_flag_drawn_of_no_collision hclear,
    State.reg_flag_drawn_of_collision ⟨y, x, (State.spriteLands_drawn hvx hvy).2 hl, hset⟩⟩

end Sys2Proof.Machine

/-! # Keypad and timers (45_keypad_timers.md): skips on a key, the start of a wait, the two timers -/

namespace Sys2Proof.Machine

/-! ## What a timer write and the start of a wait change -/

theorem changesOnly_setDelay (s : State) (b : Byte) : ChangesOnly (fun p => p = .dt) s (s.setDelay b) := by
  intro p hp
  cases p with
  | dt => exact absurd rfl hp
  | _ => rfl

theorem changesOnly_setSound (s : State) (b : Byte) : ChangesOnly (fun p => p = .st) s (s.setSound b) := by
  intro p hp
  cases p with
  | st => exact absurd rfl hp
  | _ => rfl

theorem changesOnly_startOfWait (s : State) (x : Reg) :
    ChangesOnly (fun p => p = .waitReg ∨ p = .mode) s { s with waitReg := x, mode := .awaitingKey } := by
  intro p hp
  cases p with
  | waitReg => exact absurd (.inl rfl) hp
  | mode => exact absurd (.inr rfl) hp
  | _ => rfl

/-! ## Skips on the state of a key (R180, R181, R187) -/

section
variable {s : State} {x : Reg} {k : Fin 16}

theorem keyIndex_of_toNat_eq (h : (s.reg x).toNat = k.val) : keyIndex s x = .ok k := by
  have hlt : (s.reg x).toNat < 16 := h ▸ k.isLt
  rw [keyIndex_ok hlt, show (⟨(s.reg x).toNat, hlt⟩ : Fin 16) = k from Fin.ext h]

theorem exec_skipKey_of_toNat_eq (h : (s.reg x).toNat = k.val) :
    exec (.skipKey x) s = .next (s.skipIf (s.pressed k)) := by
  rw [exec, execSkipKey, keyIndex_of_toNat_eq h, orRaise_ok]

theorem exec_skipNokey_of_toNat_eq (h : (s.reg x).toNat = k.val) :
    exec (.skipNokey x) s = .next (s.skipIf (!s.pressed k)) := by
  rw [exec, execSkipNokey, keyIndex_of_toNat_eq h, orRaise_ok]

end

/-- A skip on the opposite condition swaps the two targets. -/
theorem State.skipIf_not_pc (s : State) (c : Bool) : (s.skipIf !c).pc = if c = true then s.pc + 2 else s.pc + 4 := by
  cases c <;> rfl

/-- Settles O48: the index decides between the key to skip by and the error. -/
theorem skipOnKeyState : Obligations.SkipOnKeyState := fun x s =>
  ⟨decode_ofNat rfl (encodeXNN_toNat_of_fixed_low (by decide) x 0x9E),
    decode_ofNat rfl (encodeXNN_toNat_of_fixed_low (by decide) x 0xA1),
    fun k hk => ⟨⟨_, exec_skipKey_of_toNat_eq hk, rfl, changesOnly_skipIf s _⟩,
      ⟨_, exec_skipNokey_of_toNat_eq hk, State.skipIf_not_pc s (s.pressed k), changesOnly_skipIf s _⟩⟩,
    fun hout => ⟨exec_eq_fault.2 ⟨hout, rfl⟩, exec_eq_fault.2 ⟨hout, rfl⟩⟩⟩

/-! ## The start of a wait (R182) -/

/-- Settles O49: WAIT-KEY looks at no key and writes WAITREG and MODE alone. -/
theorem waitKeyRecordsAndWaits : Obligations.WaitKeyRecordsAndWaits := fun x s =>
  ⟨decode_ofNat rfl (encodeXNN_toNat_of_fixed_low (by decide) x 0x0A), _, rfl, rfl, rfl, changesOnly_startOfWait s x⟩

/-! ## The timers (R184 to R186) -/

/-- Settles O50: one copies DT to the register, the other the register to DT. -/
theorem getAndSetDelay : Obligations.GetAndSetDelay := fun x s =>
  ⟨decode_ofNat rfl (encodeXNN_toNat_of_fixed_low (by decide) x 0x07),
    decode_ofNat rfl (encodeXNN_toNat_of_fixed_low (by decide) x 0x15),
    ⟨_, rfl, State.reg_setReg_same s x s.dt, rfl, changesOnly_setReg_advance s x _⟩,
    ⟨_, rfl, rfl, rfl, (changesOnly_setDelay s _).advance (fun _ => .inl) (.inr rfl)⟩⟩

/-- Settles O51: a step emits what its instruction does, and only the fallback emits anything. -/
theorem setSoundNeverBeeps : Obligations.SetSoundNeverBeeps := by
  intro x s
  have hd : decode (BitVec.ofNat 16 (0xF018 + 0x100 * x.val)) = .setSound x :=
    decode_ofNat rfl (encodeXNN_toNat_of_fixed_low (by decide) x 0x18)
  refine ⟨hd, ⟨_, rfl, rfl, rfl, (changesOnly_setSound s _).advance (fun _ => .inl) (.inr rfl)⟩, fun hm hp hw => ?_⟩
  obtain ⟨hstep, hout⟩ := step_of_decode hm hp ((congrArg decode hw).trans hd)
  rw [deliver, hstep, hout, exec, execSetSound, settle_next]
  rfl

end Sys2Proof.Machine

/-! # Exceptions and host events (60_exceptions.md): the codes of the results, timers, keys, the framebuffer boundary -/

namespace Sys2Proof.Machine

/-! ## What each error's code says (R200 to R203) -/

theorem Fault.code_eq_two {f : Fault} : f.code = 2 ↔ ∃ c, f = .addressOutOfRange c := by
  cases f <;> simp [Fault.code]

theorem Fault.code_eq_three {f : Fault} : f.code = 3 ↔ ∃ a, f = .stackOverflow a := by
  cases f <;> simp [Fault.code]

theorem Fault.code_eq_four {f : Fault} : f.code = 4 ↔ ∃ a, f = .stackUnderflow a := by
  cases f <;> simp [Fault.code]

/-! ## The code and the pulses of a step (R86, R87, R206, R214) -/

section
variable {s : State}

theorem code_deliver_step_of_fault {f : Fault} (h : step s = .fault f) : (deliver .step s).reply.code = some f.code := by
  rw [deliver, h, settle_fault, Reply.code_error]

theorem code_deliver_step_of_next {t : State} (h : step s = .next t) : (deliver .step s).reply.code = some 0 := by
  rw [deliver, h, settle_next, Reply.code_ok]

/-- Code 0 is that of success, any other the code of the error the step raised. -/
theorem code_deliver_step_eq_some {c : Nat} : (deliver .step s).reply.code = some c ↔
    (c = 0 ∧ ∃ t, step s = .next t) ∨ ∃ f : Fault, step s = .fault f ∧ f.code = c := by
  cases h : step s with
  | next t => simp [code_deliver_step_of_next h, eq_comm]
  | fault f => simp [code_deliver_step_of_fault h]
  | refused q => exact absurd h step_ne_refused

theorem code_deliver_step_eq_zero : (deliver .step s).reply.code = some 0 ↔ ∃ t, step s = .next t := by
  simp [code_deliver_step_eq_some, Fault.code_ne_zero]

/-- The code that one error kind carries and no other reports exactly that kind. -/
theorem code_deliver_step_eq_code_of_kind {α : Type} {c : Nat} {kind : α → Fault} (hc : c ≠ 0)
    (hkind : ∀ {f : Fault}, f.code = c ↔ ∃ a, f = kind a) :
    (deliver .step s).reply.code = some c ↔ ∃ a, step s = .fault (kind a) := by
  simp only [code_deliver_step_eq_some, hc, false_and, false_or, hkind]
  exact ⟨fun ⟨f, h, a, hf⟩ => ⟨a, hf ▸ h⟩, fun ⟨a, h⟩ => ⟨_, h, a, rfl⟩⟩

theorem code_deliver_step_cases (s : State) :
    ∃ c, (deliver .step s).reply.code = some c ∧ (c = 0 ∨ c = 2 ∨ c = 3 ∨ c = 4) := by
  obtain ⟨t, h⟩ | ⟨c, h⟩ | ⟨a, h⟩ | ⟨a, h⟩ := (stepReturnsOkOrAnErrorThatChangesNothing s).1
  · exact ⟨0, code_deliver_step_of_next h, .inl rfl⟩
  · exact ⟨2, code_deliver_step_of_fault h, .inr (.inl rfl)⟩
  · exact ⟨3, code_deliver_step_of_fault h, .inr (.inr (.inl rfl))⟩
  · exact ⟨4, code_deliver_step_of_fault h, .inr (.inr (.inr rfl))⟩

theorem stepOutputs_beyond (hm : s.mode = .running) (hp : ¬s.pc.toNat ≤ Config.fetchMax) : stepOutputs s = [] := by
  simp only [stepOutputs, hm, fetch_error hp]

theorem stepOutputs_waiting (hm : s.mode = .awaitingKey) : stepOutputs s = [] := by
  simp only [stepOutputs, hm]

theorem code_of_mem_stepOutputs {p : Output} (h : p ∈ stepOutputs s) : p.code = some 5 := by
  cases hm : s.mode with
  | awaitingKey => simp [stepOutputs_waiting hm] at h
  | running =>
    by_cases hp : s.pc.toNat ≤ Config.fetchMax
    · exact code_of_mem_instrOutputs (stepOutputs_running hm hp ▸ h)
    · simp [stepOutputs_beyond hm hp] at h

end

/-- An event that fails emits nothing, one that succeeds no more than its own pulses (R86). -/
theorem mem_of_mem_settle_outputs {s : State} {r : Result} {o : List Output} {p : Output}
    (h : p ∈ (settle s r o).outputs) : p ∈ o := by
  cases r with
  | next t => exact h
  | fault f => cases h
  | refused q => cases h

/-! ## Construction of a program that does not fit (R205, R242) -/

theorem deliver_construct_error (glyphs : Vector Byte 80) {rom : List Byte} (s : State) (h : ¬rom.length ≤ Config.romMax) :
    deliver (.construct glyphs rom) s = ⟨s, .error (.romTooLarge rom.length), []⟩ := by
  rw [deliver, construct_error glyphs s.draws h, settle_fault]

theorem code_deliver_construct (glyphs : Vector Byte 80) (rom : List Byte) (s : State) :
    (deliver (.construct glyphs rom) s).reply.code = some (if rom.length ≤ 3584 then 0 else 1) := by
  by_cases h : rom.length ≤ 3584
  · rw [deliver, construct_ok glyphs s.draws h, settle_next, Reply.code_ok, if_pos h]
  · rw [deliver_construct_error glyphs s h, Reply.code_error, Fault.code, if_neg h]

/-- Settles O14: the length alone decides, and a failed event leaves the machine before it standing. -/
theorem constructRejectsTooLongPrograms : Obligations.ConstructRejectsTooLongPrograms := fun glyphs _ h =>
  ⟨fun draws => construct_error glyphs draws (Nat.not_le.2 h), fun s => deliver_construct_error glyphs s (Nat.not_le.2 h)⟩

/-- Settles O12: a step's outcome has one code, each code one kind of outcome, and only the fallback emits a pulse. -/
theorem resultsCarryTheirCodes : Obligations.ResultsCarryTheirCodes := fun s =>
  ⟨code_deliver_step_cases s, code_deliver_step_eq_zero,
    code_deliver_step_eq_code_of_kind (by decide) Fault.code_eq_two,
    code_deliver_step_eq_code_of_kind (by decide) Fault.code_eq_three,
    code_deliver_step_eq_code_of_kind (by decide) Fault.code_eq_four,
    fun _ hp => code_of_mem_stepOutputs (mem_of_mem_settle_outputs hp),
    fun glyphs rom => code_deliver_construct glyphs rom s⟩

/-! ## The timers (R213, R214) -/

theorem countDown_toNat (b : Byte) : (countDown b).toNat = b.toNat - 1 := by
  by_cases h : b = 0
  · rw [countDown, if_pos h, h]
    rfl
  · rw [countDown, if_neg h]
    bv_omega

theorem tickOutputs_eq (s : State) : tickOutputs s = if s.st.toNat = 1 then [.beep] else [] :=
  if_congr (BitVec.toNat_inj (y := 1)).symm rfl rfl

/-- Settles O53: each timer counts once. -/
theorem tickCountsBothTimersDown : Obligations.TickCountsBothTimersDown := fun s =>
  ⟨countDown_toNat s.dt, countDown_toNat s.st, rfl, tickOutputs_eq s, changesOnly_tick s⟩

theorem deliverAll_replicate_tick_succ (n : Nat) (s : State) :
    deliverAll (List.replicate (n + 1) .tick) s =
      ((deliverAll (List.replicate n .tick) (tick s)).1,
        tickOutputs s ++ (deliverAll (List.replicate n .tick) (tick s)).2) := rfl

/-- Settles O54, by induction on the number of ticks: the beep is the first tick's when the sound timer is at 1, and comes
later when it is above. -/
theorem ticksCountDownAndBeepOnce : Obligations.TicksCountDownAndBeepOnce := by
  intro n
  induction n with
  | zero =>
    refine fun s => ⟨rfl, rfl, ?_⟩
    rw [if_neg (by omega)]
    rfl
  | succ n ih =>
    intro s
    obtain ⟨hdt, hst, hout⟩ := ih (tick s)
    rw [tick_dt, countDown_toNat] at hdt
    rw [tick_st, countDown_toNat] at hst hout
    rw [deliverAll_replicate_tick_succ]
    refine ⟨by rw [hdt]; omega, by rw [hst]; omega, ?_⟩
    rw [hout, tickOutputs_eq]
    by_cases h : s.st.toNat = 1
    · simp [h]
    · rw [if_neg h, List.nil_append]
      exact if_congr (by omega) rfl rfl

/-! ## The keys (R217) -/

theorem setKey_eq_self {s : State} {k : Fin 16} {pressed : Bool} (h : s.key[k] = pressed) : setKey s k pressed = s := by
  have hkey : s.key.set k pressed = s.key := by
    rw [← h]
    exact Vector.set_getElem_self k.isLt
  rw [setKey, hkey]

/-- Settles O55: one key is written, and a write of the value it has is the machine as it was. -/
theorem setKeyWritesOneKey : Obligations.SetKeyWritesOneKey := fun s k pressed =>
  ⟨Vector.getElem_set_self k.isLt, rfl, rfl, changesOnly_setKey s k pressed, setKey_eq_self⟩

/-! ## The framebuffer boundary (R19, R218) -/

/-- Row and column are quotient and remainder of the flat index by the width. -/
theorem snapshotBit_eq_pixel (s : State) {y : Fin 32} {x : Fin 64} {n : Fin 2048} (h : n.val = 64 * y.val + x.val) :
    snapshotBit s n = s.pixel y x := by
  have hy : (⟨n.val / 64, by omega⟩ : Fin 32) = y := Fin.ext (by dsimp only; omega)
  have hx : (⟨n.val % 64, by omega⟩ : Fin 64) = x := Fin.ext (by dsimp only; omega)
  rw [snapshotBit, hy, hx, State.pixel]

/-- Settles O56: `clear_dirty` writes the flag, the two reads write nothing. -/
theorem framebufferBoundaryReadsAndClears : Obligations.FramebufferBoundaryReadsAndClears := fun s =>
  ⟨clearDirty_dirty s, changesOnly_clearDirty s, rfl, rfl, fun _ _ _ => snapshotBit_eq_pixel s⟩

end Sys2Proof.Machine
